-- ==== Sys2Proof/Word.lean ====
section
/-! DEFINITION. The widths the block computes on (00_scope.md R7 to R10): bytes, byte sequences and the one 32-bit word. -/

namespace Sys2Proof

/-- An 8-bit unsigned integer (R9). -/
abbrev Byte := BitVec 8

/-- A byte sequence: index 0 first, its length explicit (R9, R28). -/
abbrev Bytes := List Byte

/-- The 32-bit header word of HXOR (R16, R30). -/
abbrev Word32 := BitVec 32

end Sys2Proof
end

