-- ==== Sys2Proof/Syntax.lean ====
section
/-! DEFINITION. The request record as the host presents it (10_state.md R16), and the twelve operations with the operands each one reads (R19). -/

namespace Sys2Proof

/-- One colour: red, green, blue (R16, R109). -/
structure Color where
  r : Byte
  g : Byte
  b : Byte
  deriving DecidableEq, Repr

/-- The request record REQ (R16). `inp` is the spec's `in`; a sequence carries its own length. -/
structure Request where
  op : BitVec 4
  retry : Byte
  ctype : Byte
  fwd : Byte
  seq : Byte
  meshb : Byte
  key : Bytes
  inp : Bytes
  word : Word32
  devid : Bytes
  alo : Byte
  ghi : Byte
  const : Byte
  addr : BitVec 16
  group : Byte
  colors : List Color
  speed : Byte
  ta : Byte
  tb : Byte
  modePresent : Bool
  mode : Byte
  r : Byte
  g : Byte
  b : Byte
  deriving DecidableEq, Repr

/-- The operations of spec/opcode_table.json (R59), each with the request fields R19 lists for it. -/
inductive Instr where
  /-- PACK, R71. -/
  | pack (retry ctype fwd seq meshb : Byte) (inp : Bytes)
  /-- HXOR, R81. -/
  | hxor (word : Word32)
  /-- HXORB, R82. -/
  | hxorb (inp : Bytes)
  /-- PXOR, R83. -/
  | pxor (inp key : Bytes)
  /-- ENCODE, R86. -/
  | encode (ctype retry seq meshb fwd : Byte) (inp key : Bytes)
  /-- ENCODEH, R87. -/
  | encodeh (inp key : Bytes)
  /-- DECODE, R90. -/
  | decode (inp key : Bytes)
  /-- PAIRSTD, R101. -/
  | pairstd (devid : Bytes) (alo const : Byte) (key : Bytes)
  /-- PAIREXT, R102. -/
  | pairext (devid : Bytes) (alo ghi const : Byte) (key : Bytes)
  /-- PAIR, R103. -/
  | pair (devid : Bytes) (addr : BitVec 16) (group : Byte) (key : Bytes)
  /-- FXAUTO, R110. -/
  | fxauto (colors : List Color) (speed : Byte)
  /-- FXCOLOR, R113. -/
  | fxcolor (ta tb : Byte) (modePresent : Bool) (mode r g b : Byte)
  deriving DecidableEq, Repr

end Sys2Proof
end

