-- ==== Sys2Proof/Decode.lean ====
section
/-! DEFINITION. The operation format (30_encoding.md R59 to R61): a request selects its operation by the 4-bit field `op` and carries its operands in named fields. The decoder reads a request; the encoder writes one. -/

namespace Sys2Proof

/-- Why a request names no operation: its `op` is one of the unassigned codes 0xC to 0xF (R61). -/
inductive DecodeError where
  | unassigned (op : BitVec 4)
  deriving DecidableEq, Repr

/-- Decoding is total and compares `op` alone, as an exact 4-bit match; every field the operation does
not read is ignored (R60, R16). -/
def decodeRequest (q : Request) : Except DecodeError Instr :=
  match q.op with
  | 0x0 => .ok (.pack q.retry q.ctype q.fwd q.seq q.meshb q.inp)
  | 0x1 => .ok (.hxor q.word)
  | 0x2 => .ok (.hxorb q.inp)
  | 0x3 => .ok (.pxor q.inp q.key)
  | 0x4 => .ok (.encode q.ctype q.retry q.seq q.meshb q.fwd q.inp q.key)
  | 0x5 => .ok (.encodeh q.inp q.key)
  | 0x6 => .ok (.decode q.inp q.key)
  | 0x7 => .ok (.pairstd q.devid q.alo q.const q.key)
  | 0x8 => .ok (.pairext q.devid q.alo q.ghi q.const q.key)
  | 0x9 => .ok (.pair q.devid q.addr q.group q.key)
  | 0xA => .ok (.fxauto q.colors q.speed)
  | 0xB => .ok (.fxcolor q.ta q.tb q.modePresent q.mode q.r q.g q.b)
  | op => .error (.unassigned op)

/-- A request with the given code and every operand field zero or empty. -/
def blankRequest (op : BitVec 4) : Request where
  op := op
  retry := 0
  ctype := 0
  fwd := 0
  seq := 0
  meshb := 0
  key := []
  inp := []
  word := 0
  devid := []
  alo := 0
  ghi := 0
  const := 0
  addr := 0
  group := 0
  colors := []
  speed := 0
  ta := 0
  tb := 0
  modePresent := false
  mode := 0
  r := 0
  g := 0
  b := 0

/-- The `op` code of each operation, the table of R59. -/
def Instr.opcode : Instr → BitVec 4
  | .pack _ _ _ _ _ _ => 0x0
  | .hxor _ => 0x1
  | .hxorb _ => 0x2
  | .pxor _ _ => 0x3
  | .encode _ _ _ _ _ _ _ => 0x4
  | .encodeh _ _ => 0x5
  | .decode _ _ => 0x6
  | .pairstd _ _ _ _ => 0x7
  | .pairext _ _ _ _ _ => 0x8
  | .pair _ _ _ _ => 0x9
  | .fxauto _ _ => 0xA
  | .fxcolor _ _ _ _ _ _ _ => 0xB

/-- The request that asks for an operation: its code, its operands in their fields, every other field
zero or empty (R16: they are ignored). -/
def encodeRequest : Instr → Request
  | .pack retry ctype fwd seq meshb inp =>
    { blankRequest 0x0 with retry, ctype, fwd, seq, meshb, inp }
  | .hxor word => { blankRequest 0x1 with word }
  | .hxorb inp => { blankRequest 0x2 with inp }
  | .pxor inp key => { blankRequest 0x3 with inp, key }
  | .encode ctype retry seq meshb fwd inp key =>
    { blankRequest 0x4 with ctype, retry, seq, meshb, fwd, inp, key }
  | .encodeh inp key => { blankRequest 0x5 with inp, key }
  | .decode inp key => { blankRequest 0x6 with inp, key }
  | .pairstd devid alo const key => { blankRequest 0x7 with devid, alo, const, key }
  | .pairext devid alo ghi const key => { blankRequest 0x8 with devid, alo, ghi, const, key }
  | .pair devid addr group key => { blankRequest 0x9 with devid, addr, group, key }
  | .fxauto colors speed => { blankRequest 0xA with colors, speed }
  | .fxcolor ta tb modePresent mode r g b =>
    { blankRequest 0xB with ta, tb, modePresent, mode, r, g, b }

/-- The request with every field its operation does not read set to zero or empty: the "reads" column
of R19. A request with an unassigned code keeps its code alone. -/
def clearUnread (q : Request) : Request :=
  let z := blankRequest q.op
  match q.op with
  | 0x0 => { z with retry := q.retry, ctype := q.ctype, fwd := q.fwd, seq := q.seq,
                    meshb := q.meshb, inp := q.inp }
  | 0x1 => { z with word := q.word }
  | 0x2 => { z with inp := q.inp }
  | 0x3 => { z with inp := q.inp, key := q.key }
  | 0x4 => { z with ctype := q.ctype, retry := q.retry, seq := q.seq, meshb := q.meshb,
                    fwd := q.fwd, inp := q.inp, key := q.key }
  | 0x5 => { z with inp := q.inp, key := q.key }
  | 0x6 => { z with inp := q.inp, key := q.key }
  | 0x7 => { z with devid := q.devid, alo := q.alo, const := q.const, key := q.key }
  | 0x8 => { z with devid := q.devid, alo := q.alo, ghi := q.ghi, const := q.const, key := q.key }
  | 0x9 => { z with devid := q.devid, addr := q.addr, group := q.group, key := q.key }
  | 0xA => { z with colors := q.colors, speed := q.speed }
  | 0xB => { z with ta := q.ta, tb := q.tb, modePresent := q.modePresent, mode := q.mode,
                    r := q.r, g := q.g, b := q.b }
  | _ => z

/-- The request whose table bits are `w`: the table gives a request's four `op` bits and no bit of any
operand (opcode_table.json: `match` and `mask` "on the 4-bit op field alone"), so the operands are
zero or empty and bits at `nbits` or above, and at 4 or above, select nothing (mask `0xF`, R60). -/
def tableRequest (nbits w : Nat) : Request :=
  blankRequest (BitVec.ofNat 4 (w % 2 ^ nbits))

/-- The instruction the decoder reads from table bits `w`. -/
def decodeTableWord (nbits w : Nat) : Option Instr :=
  match decodeRequest (tableRequest nbits w) with
  | .ok i => some i
  | .error _ => none

end Sys2Proof
end

