-- ==== Sys2Proof/Config.lean ====
section
/-! DEFINITION. What is fixed when the block is built: the parameters of 00_scope.md R6 that the spec leaves open, with their defaults. The model has no free value: the spec leaves none (R12). -/

namespace Sys2Proof

/-- A bound on a length: a number, or none at all (R6: PAYLOAD_MAX "may be set to unbounded"). -/
inductive Limit where
  | upTo (n : Nat)
  | unbounded
  deriving DecidableEq, Repr

/-- Whether a length is within the limit. -/
def Limit.admits : Limit → Nat → Bool
  | .upTo m, n => decide (n ≤ m)
  | .unbounded, _ => true

/-- The limit raised by `k`. -/
def Limit.plus : Limit → Nat → Limit
  | .upTo m, k => .upTo (m + k)
  | .unbounded, _ => .unbounded

/-- Whether every length within the first limit is within the second. -/
def Limit.le : Limit → Limit → Bool
  | _, .unbounded => true
  | .upTo a, .upTo b => decide (a ≤ b)
  | .unbounded, .upTo _ => false

/-- What an out-of-range `retry`, `ctype` or `fwd` does (R6, R68): raise RangeError, or be masked. -/
inductive RangeMode where
  | fault
  | mask
  deriving DecidableEq, Repr

/-- The open parameters of R6. REGMAP is not among them: no rule reads it (R37). -/
structure Config where
  /-- PAYLOAD_MAX: the largest payload of PACK, ENCODE, ENCODEH and DECODE. -/
  payloadMax : Limit
  /-- IN_CAP: capacity of `in`. -/
  inCap : Limit
  /-- OUT_CAP: capacity of `out`. -/
  outCap : Limit
  /-- KEY_CAP: the longest `key` a request can carry. -/
  keyCap : Limit
  /-- DEVID_CAP: the longest `devid` a request can carry. -/
  devidCap : Limit
  /-- COLORS_CAP: the most colours a request can carry. -/
  colorsCap : Limit
  /-- RANGE_MODE: concerns `retry`, `ctype` and `fwd` only. -/
  rangeMode : RangeMode
  /-- PAIR_CONST: the constant byte PAIR writes. -/
  pairConst : Byte
  deriving DecidableEq, Repr

/-- The defaults of R6. -/
def Config.default : Config where
  payloadMax := .upTo 20
  inCap := .upTo 24
  outCap := .upTo 24
  keyCap := .upTo 15
  devidCap := .upTo 15
  colorsCap := .upTo 15
  rangeMode := .fault
  pairConst := 0x01

/-- The parameters fit together: every legal request can be presented, and every output fits `out`
(R6: IN_CAP is HDR_LEN + PAYLOAD_MAX, OUT_CAP "at least 18"; R83: PXOR's output is as long as `in`).
DEDUCED (log entry 13). -/
def Config.wf (c : Config) : Bool :=
  (c.payloadMax.plus 4).le c.inCap && c.inCap.le c.outCap && c.outCap.admits 18
    && c.keyCap.admits 4 && c.devidCap.admits 6 && c.colorsCap.admits 4

end Sys2Proof
end

