-- ==== Sys2Proof/Machine/State.lean ====
section
/-! DEFINITION. The block's state (10_state.md R15, R17, R27): the response record and `valid`, beside two fields of the model's own, the parameters and the host's moves to come. -/

namespace Sys2Proof.Machine

/-- What RSP.status says (60_exceptions.md R123). -/
inductive Status where
  | ok
  | lengthError
  | rangeError
  | illegalOp
  deriving DecidableEq, Repr

/-- The response record RSP (R17). -/
structure Response where
  status : Status
  out : Bytes
  oword : Word32
  dCtype : BitVec 3
  dRetry : BitVec 4
  dFwd : BitVec 1
  dSeq : Byte
  dMeshb : Byte
  dCsum : Byte
  csok : Bool
  deriving DecidableEq, Repr

/-- Every field zero, `out` empty, status OK: RSP after reset (R27), and what a field keeps when an
operation does not write it (R17). -/
def Response.zero : Response where
  status := .ok
  out := []
  oword := 0
  dCtype := 0
  dRetry := 0
  dFwd := 0
  dSeq := 0
  dMeshb := 0
  dCsum := 0
  csok := false

/-- The host's moves that act on the block (R13, R146): present a request, apply reset. -/
inductive HostMove where
  | request (q : Request)
  | reset
  deriving DecidableEq, Repr

/-- The machine. `rsp` and `valid` are the block's whole state (R15). `cfg` is fixed when the block is
built and no step writes it (R22). `inputs` is the host's, not the block's: the moves it has still to
make, oldest first (R142). DESIGN CHOICE (log entries 1 and 2). -/
structure State where
  rsp : Response
  valid : Bool
  cfg : Config
  inputs : List HostMove
  deriving DecidableEq, Repr

/-- The machine right after reset, at the default parameters, with nothing presented (R27, R139). -/
def State.reset : State where
  rsp := .zero
  valid := false
  cfg := .default
  inputs := []

/-- Reasons a step can stop with a fault: none. The block has "no halt, no hang and no stuck state"
(70_reset_and_hazards.md R143), and its errors are next states (R129). No operation raises one. Safe:
there is nothing for a proof to lean on. -/
inductive Fault where
  deriving DecidableEq, Repr

/-- Reasons a step can be refused. -/
inductive Refusal where
  /-- Raised only by an arm of `exec` whose instruction has no meaning yet. No arm raises it: every row
  of the table is modelled. Safe: a refused instruction claims nothing. -/
  | notModelled (mnemonic : String)
  deriving DecidableEq, Repr

/-- How a step or a meaning ends. -/
abbrev Result := Host.Outcome State Fault Refusal

end Sys2Proof.Machine
end

