-- ==== Sys2Proof/Machine/Ops.lean ====
section
/-! DEFINITION. The shared operations: the two buffer primitives (20_memory.md R29), raising an error and completing an operation (60_exceptions.md R129, R131), and the host's moves (70_reset_and_hazards.md R139, R146). -/

namespace Sys2Proof.Machine

/-- The error kinds (60_exceptions.md R119). -/
inductive ErrorKind where
  | lengthError
  | rangeError
  | illegalOp
  deriving DecidableEq, Repr

/-- `MemRead(buf, i, n)` (R29): the bytes `buf[i..i+n)`, where they exist (R28). -/
def memRead (buf : Bytes) (i n : Nat) : Option Bytes :=
  if i + n ≤ buf.length then some ((buf.drop i).take n) else none

/-- `MemWrite(out, i, len(v), v)` (R29): `v` at `out[i..)`, extending `out` to `i + len(v)`. None where
`i` lies beyond the length: the bytes between would not exist (R28; DEDUCED, log entry 12). -/
def memWrite (out : Bytes) (i : Nat) (v : Bytes) : Option Bytes :=
  if i ≤ out.length then some (out.take i ++ v ++ out.drop (i + v.length)) else none

/-- The status an error leaves (R123). -/
def ErrorKind.status : ErrorKind → Status
  | .lengthError => .lengthError
  | .rangeError => .rangeError
  | .illegalOp => .illegalOp

/-- `raise E` (R129): the status is the error's, `out` is empty, every other response field is zero,
and `valid` is 1. Nothing is saved and control goes nowhere. -/
def raise (e : ErrorKind) (s : State) : State :=
  { s with rsp := { Response.zero with status := e.status }, valid := true }

/-- The end of a successful operation: RSP is overwritten as a whole and `valid` is 1 (R15, R17). It is
also the whole of the return from an error (R131): nothing sticks, nothing is restored. -/
def complete (r : Response) (s : State) : State :=
  { s with rsp := r, valid := true }

/-- One request, one response (R35, R130): every test of an operation comes before any of its results,
so `r` is an error or a complete response. -/
def respond (s : State) (r : Except ErrorKind Response) : Result :=
  match r with
  | .ok a => .next (complete a s)
  | .error e => .next (raise e s)

/-- A response that writes `out` alone: `RSP.out <- v ; RSP.status <- OK` (R17). -/
def outResponse (v : Bytes) : Response :=
  { Response.zero with out := v }

/-- The state whose oldest host move has been taken. -/
def State.consume (s : State) : State :=
  { s with inputs := s.inputs.tail }

/-- Reset (R27, R139): RSP and `valid` as after reset. The parameters are fixed (R22), and the moves
the host has still to make are the host's. -/
def applyReset (s : State) : State :=
  { s with rsp := .zero, valid := false }

/-- The host presents a request (R13): it follows the moves not yet taken. -/
def State.present (q : Request) (s : State) : State :=
  { s with inputs := s.inputs ++ [.request q] }

/-- The host applies reset (R139). -/
def State.requestReset (s : State) : State :=
  { s with inputs := s.inputs ++ [.reset] }

/-- The host reads the last response (R13), which is "the only status a host can read" (R22): RSP, not
`valid`. Reading has no side effect (R36). -/
def State.read (s : State) : Response :=
  s.rsp

end Sys2Proof.Machine
end

