-- ==== Sys2Proof/Machine/Wire.lean ====
section
/-! DEFINITION. The value types that live only as operands and results of one request (10_state.md R26), and their byte views: the header and its little-endian word, the mesh key, sums and zeros, the fixed constants. -/

namespace Sys2Proof.Machine

/-- The 4 header bytes in index order (30_encoding.md R45), plaintext or obfuscated. -/
@[ext]
structure Header where
  b0 : Byte
  seq : Byte
  meshb : Byte
  csum : Byte
  deriving DecidableEq, Repr

/-- The mesh key, "exactly 4 bytes", in index order (R50). -/
@[ext]
structure MeshKey where
  k0 : Byte
  k1 : Byte
  k2 : Byte
  k3 : Byte
  deriving DecidableEq, Repr

/-- What `unpack_header` recovers (R70). -/
structure HeaderFields where
  retry : BitVec 4
  ctype : BitVec 3
  fwd : BitVec 1
  seq : Byte
  meshb : Byte
  csum : Byte
  deriving DecidableEq, Repr

/-- The names of the command types (R47). No operation reads them: the type is an opaque 3-bit number. -/
inductive CommandType where
  | statusQuery
  | control
  | pairing
  | group
  | scene
  | reserved
  deriving DecidableEq, Repr

/-- The name of a 3-bit command type (R47). -/
def commandType (c : BitVec 3) : CommandType :=
  match c with
  | 0 => .statusQuery
  | 1 => .control
  | 2 => .pairing
  | 3 => .group
  | 4 => .scene
  | _ => .reserved

/-- The header as a byte sequence, index 0 first. -/
def Header.bytes (h : Header) : Bytes := [h.b0, h.seq, h.meshb, h.csum]

/-- The key as a byte sequence, index 0 first. -/
def MeshKey.bytes (k : MeshKey) : Bytes := [k.k0, k.k1, k.k2, k.k3]

/-- The key byte that payload index `i` meets: `key[i mod 4]` (R44, R77). -/
def MeshKey.byte (k : MeshKey) (i : Nat) : Byte :=
  match i % 4 with
  | 0 => k.k0
  | 1 => k.k1
  | 2 => k.k2
  | _ => k.k3

/-- `le32` (R9, R30): header byte 0 is bits 7 to 0, byte 3 bits 31 to 24. -/
def le32 (h : Header) : Word32 :=
  h.b0.setWidth 32 ||| h.seq.setWidth 32 <<< 8 ||| h.meshb.setWidth 32 <<< 16
    ||| h.csum.setWidth 32 <<< 24

/-- `bytes_le32` (R9), the inverse of `le32`. -/
def bytesLe32 (w : Word32) : Header where
  b0 := w.extractLsb' 0 8
  seq := w.extractLsb' 8 8
  meshb := w.extractLsb' 16 8
  csum := w.extractLsb' 24 8

/-- `sum(s)`: the natural-number sum of the bytes (R10). -/
def sumBytes : Bytes → Nat
  | [] => 0
  | b :: s => b.toNat + sumBytes s

/-- `zeros(n)` (R9). -/
def zeros (n : Nat) : Bytes := List.replicate n 0x00

/-- HDR_XOR as the little-endian integer (R6, R51). -/
def hdrXor : Word32 := 0xC47B365E

/-- HDR_XOR_BYTES, index 0 first (R6, R51). -/
def hdrXorBytes : Header := ⟨0x5E, 0x36, 0x7B, 0xC4⟩

/-- MODE_DIRECT, written when no mode is given (R6, R112). -/
def modeDirect : Byte := 0xFF

/-- DEVID_LEN: the device id bytes a pairing record uses (R6). -/
def devidLen : Nat := 6

/-- PAIR_EXT_THRESHOLD: the extended record is for addresses above it (R6, R100). -/
def pairExtThreshold : BitVec 16 := 256

/-- FXAUTO_LEN (R6). -/
def fxautoLen : Nat := 16

/-- FXAUTO_MAXCOLORS (R6). -/
def fxautoMaxColors : Nat := 4

end Sys2Proof.Machine
end

