-- ==== Sys2Proof/Machine/Operands.lean ====
section
/-! DEFINITION. Reading the operands of a request, with every test of 60_exceptions.md R120 and R121. A sequence over its capacity is LengthError (R120, log entry 3); a read past the end of a sequence is never made: the request is refused with LengthError (20_memory.md R29). -/

namespace Sys2Proof.Machine

/-- A test that comes before any result (R130). -/
def require (b : Bool) (e : ErrorKind) : Except ErrorKind Unit :=
  if b then .ok () else .error e

/-- HDR_LEN (00_scope.md R6). -/
def hdrLen : Nat := 4

/-- `key`: exactly 4 bytes (R120). -/
def readKey (c : Config) (key : Bytes) : Except ErrorKind MeshKey := do
  require (c.keyCap.admits key.length) .lengthError
  match key with
  | [k0, k1, k2, k3] => .ok ⟨k0, k1, k2, k3⟩
  | _ => .error .lengthError

/-- `in` as a plaintext payload: at most PAYLOAD_MAX bytes (R120: PACK, ENCODE). -/
def readPayload (c : Config) (inp : Bytes) : Except ErrorKind Bytes := do
  require (c.inCap.admits inp.length) .lengthError
  require (c.payloadMax.admits inp.length) .lengthError
  return inp

/-- `in` as bytes of any number the buffer holds (R83: PXOR is bounded by IN_CAP alone). -/
def readBytes (c : Config) (inp : Bytes) : Except ErrorKind Bytes := do
  require (c.inCap.admits inp.length) .lengthError
  return inp

/-- The header at indexes 0 to 3 of a buffer (R44), where those bytes exist. -/
def readHeader (buf : Bytes) : Except ErrorKind Header :=
  match memRead buf 0 hdrLen with
  | some [b0, seq, meshb, csum] => .ok ⟨b0, seq, meshb, csum⟩
  | _ => .error .lengthError

/-- `in` as exactly the 4 header bytes (R120: HXORB). -/
def readHeaderOnly (c : Config) (inp : Bytes) : Except ErrorKind Header := do
  require (c.inCap.admits inp.length) .lengthError
  require (inp.length == hdrLen) .lengthError
  readHeader inp

/-- `in` as a frame: 4 header bytes and the rest, 4 to 4 + PAYLOAD_MAX bytes (R120: ENCODEH, DECODE). -/
def readFrame (c : Config) (inp : Bytes) : Except ErrorKind (Header × Bytes) := do
  require (c.inCap.admits inp.length) .lengthError
  require ((c.payloadMax.plus hdrLen).admits inp.length) .lengthError
  let h ← readHeader inp
  return (h, inp.drop hdrLen)

/-- `devid`: at least 6 bytes, the first 6 used (R106, R120). -/
def readDevid (c : Config) (devid : Bytes) : Except ErrorKind Bytes := do
  require (c.devidCap.admits devid.length) .lengthError
  match memRead devid 0 devidLen with
  | some d => .ok d
  | none => .error .lengthError

/-- `hdr_fields_ok` (40_header_packer.md R68), unsigned comparisons on the 8-bit operands. -/
def hdrFieldsOk (retry ctype fwd : Byte) : Bool :=
  decide (retry.toNat ≤ 15) && decide (ctype.toNat ≤ 7) && decide (fwd.toNat ≤ 1)

/-- The header range check: RangeError when RANGE_MODE is `fault` and a field is out of range, no check
when it is `mask` (R68, R121). -/
def checkHeaderFields (c : Config) (retry ctype fwd : Byte) : Except ErrorKind Unit :=
  require (c.rangeMode == .mask || hdrFieldsOk retry ctype fwd) .rangeError

/-- FXAUTO's checks, made whatever RANGE_MODE is (R110, R121): 1 to 4 colours, `speed` not 0. -/
def checkEffect (colors : List Color) (speed : Byte) : Except ErrorKind Unit := do
  require (decide (1 ≤ colors.length) && decide (colors.length ≤ fxautoMaxColors)) .rangeError
  require (decide (1 ≤ speed.toNat)) .rangeError

/-- The pairing address split (30_encoding.md R58): `addr[7:0]`. -/
def addressLow (addr : BitVec 16) : Byte := addr.extractLsb' 0 8

/-- The pairing address split (R58): `addr[15:8]`. -/
def addressHigh (addr : BitVec 16) : Byte := addr.extractLsb' 8 8

/-- The mode byte of the colour command (R58, R113): `mode` when given, `0xFF` when absent. -/
def modeByte (modePresent : Bool) (mode : Byte) : Byte :=
  if modePresent then mode else modeDirect

/-- A colour's bytes: red, green, blue (44_effects.md R109). -/
def colorBytes (c : Color) : Bytes := [c.r, c.g, c.b]

end Sys2Proof.Machine
end

