-- ==== Sys2Proof/Machine/Effects.lean ====
section
/-! DEFINITION. The effect command builders (44_effects.md): FXAUTO, FXCOLOR. Their output is a plaintext payload (R116). -/

namespace Sys2Proof.Machine

/-- `fx_auto` (R109): marker bytes, length byte, count, speed, the triples in order, zero-padded and cut
to 16 bytes. With four colours the cut drops the fourth's blue (R111). -/
def fxAuto (colors : List Color) (speed : Byte) : Bytes :=
  let body := [0x00, 0x52, 0x04, BitVec.ofNat 8 colors.length, speed] ++ colors.flatMap colorBytes
  (body ++ zeros fxautoLen).take fxautoLen

/-- `fx_color` (R112) with the mode byte already chosen. -/
def fxColor (ta tb m r g b : Byte) : Bytes :=
  [0x93, ta, tb, 0x04, m, r, g, b, 0x00, 0x00, 0x00, 0x00]

/-- FXAUTO (R110). -/
def execFxauto (colors : List Color) (speed : Byte) (s : State) : Result :=
  respond s do
    checkEffect colors speed
    return outResponse (fxAuto colors speed)

/-- FXCOLOR (R113). Nothing fails. -/
def execFxcolor (ta tb : Byte) (modePresent : Bool) (mode r g b : Byte) (s : State) : Result :=
  respond s (.ok (outResponse (fxColor ta tb (modeByte modePresent mode) r g b)))

end Sys2Proof.Machine
end

