-- ==== Sys2Proof/Machine/Obfuscator.lean ====
section
/-! DEFINITION. The keystream obfuscator (41_obfuscator.md): HXOR, HXORB, PXOR. -/

namespace Sys2Proof.Machine

/-- The header transform, integer form (R75). -/
def hxor32 (w : Word32) : Word32 := w ^^^ hdrXor

/-- The header transform, byte-wise form, the canonical one (R76). -/
def hxorBytes (h : Header) : Header where
  b0 := h.b0 ^^^ hdrXorBytes.b0
  seq := h.seq ^^^ hdrXorBytes.seq
  meshb := h.meshb ^^^ hdrXorBytes.meshb
  csum := h.csum ^^^ hdrXorBytes.csum

/-- The payload transform of a run of bytes whose first has payload index `j` (R77, R84). -/
def pxorFrom (k : MeshKey) : Nat → Bytes → Bytes
  | _, [] => []
  | j, b :: p => (b ^^^ k.byte j) :: pxorFrom k (j + 1) p

/-- `pxor(p, k)` (R77): byte `i` XOR `k[i mod 4]`, `i` from the first payload byte. -/
def pxorBytes (p : Bytes) (k : MeshKey) : Bytes := pxorFrom k 0 p

/-- HXOR (R81). Every word is legal. -/
def execHxor (word : Word32) (s : State) : Result :=
  respond s (.ok { Response.zero with oword := hxor32 word })

/-- HXORB (R82). -/
def execHxorb (inp : Bytes) (s : State) : Result :=
  respond s do
    let h ← readHeaderOnly s.cfg inp
    return outResponse (hxorBytes h).bytes

/-- PXOR (R83). -/
def execPxor (inp key : Bytes) (s : State) : Result :=
  respond s do
    let k ← readKey s.cfg key
    let p ← readBytes s.cfg inp
    return outResponse (pxorBytes p k)

end Sys2Proof.Machine
end

