-- ==== Sys2Proof/Machine/Flags.lean ====
section
/-! DEFINITION. The block's two flag-like outputs (10_state.md R21): the status code, and `csok` with the checksum it compares. -/

namespace Sys2Proof.Machine

/-- The 2-bit code of a status (60_exceptions.md R123). -/
def Status.code : Status → BitVec 2
  | .ok => 0
  | .lengthError => 1
  | .rangeError => 2
  | .illegalOp => 3

/-- `csum8` (40_header_packer.md R67): the sum of header bytes 0 to 2 and the payload, mod 256. -/
def csum8 (b0 seq meshb : Byte) (p : Bytes) : Byte :=
  BitVec.ofNat 8 (b0.toNat + seq.toNat + meshb.toNat + sumBytes p)

/-- `csok` (42_frame_codec.md R92): the checksum byte of a plaintext header equals the one recomputed. -/
def checksumMatches (h : Header) (p : Bytes) : Bool :=
  h.csum == csum8 h.b0 h.seq h.meshb p

end Sys2Proof.Machine
end

