-- ==== Sys2Proof/Machine/Packer.lean ====
section
/-! DEFINITION. The checksum and header packer (40_header_packer.md): PACK. -/

namespace Sys2Proof.Machine

/-- `pack_b0` (30_encoding.md R56). -/
def packB0 (retry ctype fwd : Byte) : Byte :=
  (retry &&& 0x0F) ||| ((ctype &&& 0x07) <<< 4) ||| ((fwd &&& 0x01) <<< 7)

/-- The plaintext header of R69, its checksum filled in over the plaintext (R72). -/
def plainHeader (retry ctype fwd seq meshb : Byte) (p : Bytes) : Header :=
  let b0 := packB0 retry ctype fwd
  ⟨b0, seq, meshb, csum8 b0 seq meshb p⟩

/-- `pack_header` (R69): the plaintext header, then the payload unchanged. -/
def packHeader (retry ctype fwd seq meshb : Byte) (p : Bytes) : Bytes :=
  (plainHeader retry ctype fwd seq meshb p).bytes ++ p

/-- `unpack_header` (R70, R57): total; the checksum byte is copied out, not checked. -/
def unpackHeader (h : Header) : HeaderFields where
  retry := h.b0.extractLsb' 0 4
  ctype := h.b0.extractLsb' 4 3
  fwd := h.b0.extractLsb' 7 1
  seq := h.seq
  meshb := h.meshb
  csum := h.csum

/-- PACK (R71). -/
def execPack (retry ctype fwd seq meshb : Byte) (inp : Bytes) (s : State) : Result :=
  respond s do
    let p ← readPayload s.cfg inp
    checkHeaderFields s.cfg retry ctype fwd
    return outResponse (packHeader retry ctype fwd seq meshb p)

end Sys2Proof.Machine
end

