-- ==== Sys2Proof/Machine/FrameCodec.lean ====
section
/-! DEFINITION. The control command codec (42_frame_codec.md): ENCODE, ENCODEH, DECODE. -/

namespace Sys2Proof.Machine

/-- `encode` (R85): pack with the checksum over the plaintext, then both transforms. -/
def encodeFrame (ctype retry seq meshb fwd : Byte) (p : Bytes) (k : MeshKey) : Bytes :=
  (hxorBytes (plainHeader retry ctype fwd seq meshb p)).bytes ++ pxorBytes p k

/-- The response of DECODE (R89, R90, R92) for an obfuscated header `h` and payload `q`: the recovered
fields and payload, and `csok` beside them. The checksum is never verified (R91). -/
def decodeResponse (h : Header) (q : Bytes) (k : MeshKey) : Response :=
  let plain := hxorBytes h
  let d := unpackHeader plain
  let p := pxorBytes q k
  { Response.zero with
    out := p
    dCtype := d.ctype
    dRetry := d.retry
    dFwd := d.fwd
    dSeq := d.seq
    dMeshb := d.meshb
    dCsum := d.csum
    csok := checksumMatches plain p }

/-- ENCODE (R86). -/
def execEncode (ctype retry seq meshb fwd : Byte) (inp key : Bytes) (s : State) : Result :=
  respond s do
    let k ← readKey s.cfg key
    let p ← readPayload s.cfg inp
    checkHeaderFields s.cfg retry ctype fwd
    return outResponse (encodeFrame ctype retry seq meshb fwd p k)

/-- ENCODEH (R87): the header passes through, untouched and unchecked. -/
def execEncodeh (inp key : Bytes) (s : State) : Result :=
  respond s do
    let k ← readKey s.cfg key
    let (h, p) ← readFrame s.cfg inp
    return outResponse (h.bytes ++ pxorBytes p k)

/-- DECODE (R90). -/
def execDecode (inp key : Bytes) (s : State) : Result :=
  respond s do
    let k ← readKey s.cfg key
    let (h, q) ← readFrame s.cfg inp
    return decodeResponse h q k

end Sys2Proof.Machine
end

