-- ==== Sys2Proof/Machine/Pairing.lean ====
section
/-! DEFINITION. The pairing record builder (43_pairing.md): PAIRSTD, PAIREXT, PAIR. Nothing here is ever obfuscated (R104). -/

namespace Sys2Proof.Machine

/-- `pair_std` (R98) on the six device id bytes used. -/
def pairStd (devid6 : Bytes) (a c : Byte) (k : MeshKey) : Bytes :=
  devid6 ++ [a, c] ++ k.bytes

/-- `pair_ext` (R99). -/
def pairExt (devid6 : Bytes) (lo gh c : Byte) (k : MeshKey) : Bytes :=
  devid6 ++ [lo, c] ++ k.bytes ++ [gh] ++ zeros 5

/-- `pair_dispatch` (R100): unsigned comparison on all 16 bits; the group id is read in neither branch,
and at address 256 the standard record's address byte is `addr[7:0]` (R107). -/
def pairDispatch (pairConst : Byte) (devid6 : Bytes) (addr : BitVec 16) (k : MeshKey) : Bytes :=
  if pairExtThreshold < addr then
    pairExt devid6 (addressLow addr) (addressHigh addr) pairConst k
  else pairStd devid6 (addressLow addr) pairConst k

/-- PAIRSTD (R101). -/
def execPairstd (devid : Bytes) (alo const : Byte) (key : Bytes) (s : State) : Result :=
  respond s do
    let d ← readDevid s.cfg devid
    let k ← readKey s.cfg key
    return outResponse (pairStd d alo const k)

/-- PAIREXT (R102). -/
def execPairext (devid : Bytes) (alo ghi const : Byte) (key : Bytes) (s : State) : Result :=
  respond s do
    let d ← readDevid s.cfg devid
    let k ← readKey s.cfg key
    return outResponse (pairExt d alo ghi const k)

/-- PAIR (R103). `group` is an operand that reaches no output byte. -/
def execPair (devid : Bytes) (addr : BitVec 16) (_group : Byte) (key : Bytes) (s : State) : Result :=
  respond s do
    let d ← readDevid s.cfg devid
    let k ← readKey s.cfg key
    return outResponse (pairDispatch s.cfg.pairConst d addr k)

end Sys2Proof.Machine
end

