-- ==== Sys2Proof/Machine/Dispatch.lean ====
section
/-! DEFINITION. One arm per operation (10_state.md R19). -/

namespace Sys2Proof.Machine

def exec (i : Instr) (s : State) : Host.Outcome State Fault Refusal :=
  match i with
  | .pack retry ctype fwd seq meshb inp => Sys2Proof.Machine.execPack retry ctype fwd seq meshb inp s
  | .hxor word => Sys2Proof.Machine.execHxor word s
  | .hxorb inp => Sys2Proof.Machine.execHxorb inp s
  | .pxor inp key => Sys2Proof.Machine.execPxor inp key s
  | .encode ctype retry seq meshb fwd inp key => Sys2Proof.Machine.execEncode ctype retry seq meshb fwd inp key s
  | .encodeh inp key => Sys2Proof.Machine.execEncodeh inp key s
  | .decode inp key => Sys2Proof.Machine.execDecode inp key s
  | .pairstd devid alo const key => Sys2Proof.Machine.execPairstd devid alo const key s
  | .pairext devid alo ghi const key => Sys2Proof.Machine.execPairext devid alo ghi const key s
  | .pair devid addr group key => Sys2Proof.Machine.execPair devid addr group key s
  | .fxauto colors speed => Sys2Proof.Machine.execFxauto colors speed s
  | .fxcolor ta tb modePresent mode r g b => Sys2Proof.Machine.execFxcolor ta tb modePresent mode r g b s

end Sys2Proof.Machine
end

