-- ==== Sys2Proof/Machine/Step.lean ====
section
/-! DEFINITION. One step of the block (10_state.md R13): take the oldest host move, and for a request decode it, execute it and make its response visible. -/

namespace Sys2Proof.Machine

/-- With nothing presented the block performs nothing (R140, R142). A request runs its operation; an
unassigned code raises IllegalOp (R61); reset clears the response (R139). -/
def step (s : State) : Host.Outcome State Fault Refusal :=
  match s.inputs with
  | [] => .next s
  | .reset :: _ => .next (applyReset s.consume)
  | .request q :: _ =>
    match decodeRequest q with
    | .ok i => exec i s.consume
    | .error (.unassigned _) => .next (raise .illegalOp s.consume)

/-- The state in which the host presents, next of all, the request with table bits `w`. The block
fetches nothing (R20): the oldest entry of `inputs` is where an operation comes from. -/
def State.withFetchWord (s : State) (nbits w : Nat) : State :=
  { s with inputs := .request (tableRequest nbits w) :: s.inputs }

end Sys2Proof.Machine
end

