-- ==== Sys2Proof/WellFormed.lean ====
section
/-! DEFINITION. Which operations a request within the capacities of 00_scope.md R6 can carry. Scalar widths hold by type (10_state.md R16). -/

namespace Sys2Proof

/-- Every sequence operand is within its capacity (R6, R28): `in`, `key`, `devid`, `colors`. -/
def Instr.wf (c : Config) : Instr → Bool
  | .pack _ _ _ _ _ inp => c.inCap.admits inp.length
  | .hxor _ => true
  | .hxorb inp => c.inCap.admits inp.length
  | .pxor inp key => c.inCap.admits inp.length && c.keyCap.admits key.length
  | .encode _ _ _ _ _ inp key => c.inCap.admits inp.length && c.keyCap.admits key.length
  | .encodeh inp key => c.inCap.admits inp.length && c.keyCap.admits key.length
  | .decode inp key => c.inCap.admits inp.length && c.keyCap.admits key.length
  | .pairstd devid _ _ key => c.devidCap.admits devid.length && c.keyCap.admits key.length
  | .pairext devid _ _ _ key => c.devidCap.admits devid.length && c.keyCap.admits key.length
  | .pair devid _ _ key => c.devidCap.admits devid.length && c.keyCap.admits key.length
  | .fxauto colors _ => c.colorsCap.admits colors.length
  | .fxcolor _ _ _ _ _ _ _ => true

end Sys2Proof
end

