-- ==== Sys2Proof/Safety.lean ====
section
/-! DEFINITION. What claims about the machine are stated in: which request earns which status (60_exceptions.md R120, R121, R126), and the invariant every step keeps. -/

namespace Sys2Proof.Machine

/-- A sequence operand longer than its capacity, for the buffers R120 names (`in`, `key`, `devid`).
FXAUTO reads none of them and "never raises LengthError" (R120; log entries 3 and 4). -/
def overCapacity (c : Config) (i : Instr) : Bool :=
  match i with
  | .fxauto _ _ => false
  | i => !i.wf c

/-- The table of R120, row by row: when LengthError applies. -/
def lengthFault (c : Config) (i : Instr) : Bool :=
  overCapacity c i ||
    match i with
    | .pack _ _ _ _ _ inp => !c.payloadMax.admits inp.length
    | .hxor _ => false
    | .hxorb inp => decide (inp.length ≠ 4)
    | .pxor _ key => decide (key.length ≠ 4)
    | .encode _ _ _ _ _ inp key => decide (key.length ≠ 4) || !c.payloadMax.admits inp.length
    | .encodeh inp key =>
      decide (key.length ≠ 4) || decide (inp.length < 4) || !(c.payloadMax.plus 4).admits inp.length
    | .decode inp key =>
      decide (key.length ≠ 4) || decide (inp.length < 4) || !(c.payloadMax.plus 4).admits inp.length
    | .pairstd devid _ _ key => decide (devid.length < 6) || decide (key.length ≠ 4)
    | .pairext devid _ _ _ key => decide (devid.length < 6) || decide (key.length ≠ 4)
    | .pair devid _ _ key => decide (devid.length < 6) || decide (key.length ≠ 4)
    | .fxauto _ _ => false
    | .fxcolor _ _ _ _ _ _ _ => false

/-- The table of R121, row by row: when RangeError applies. -/
def rangeFault (c : Config) (i : Instr) : Bool :=
  match i with
  | .pack retry ctype fwd _ _ _ =>
    decide (c.rangeMode = .fault)
      && (decide (15 < retry.toNat) || decide (7 < ctype.toNat) || decide (1 < fwd.toNat))
  | .encode ctype retry _ _ fwd _ _ =>
    decide (c.rangeMode = .fault)
      && (decide (15 < retry.toNat) || decide (7 < ctype.toNat) || decide (1 < fwd.toNat))
  | .fxauto colors speed =>
    decide (colors.length < 1) || decide (4 < colors.length) || decide (speed.toNat < 1)
  | _ => false

/-- The one status an assigned operation reports: LengthError before RangeError (R126). -/
def statusOf (c : Config) (i : Instr) : Status :=
  if lengthFault c i then .lengthError else if rangeFault c i then .rangeError else .ok

/-- The machine's invariant: the parameters fit together, `out` is within OUT_CAP (R28), an error
response carries its status and nothing else (R129), and before the first request completes RSP is as
reset left it (R15, R27). -/
def State.inv (s : State) : Bool :=
  s.cfg.wf && s.cfg.outCap.admits s.rsp.out.length
    && (s.rsp.status == .ok || s.rsp == { Response.zero with status := s.rsp.status })
    && (s.valid || s.rsp == .zero)

end Sys2Proof.Machine
end

