-- ==== Sys2Proof/Certificates/Slice0/Obligations.lean ====
section
/-! DEFINITION. The statements for the provers, each formalising or following from numbered rules of spec/. Every statement about a state quantifies over the parameters too: they are `s.cfg`. -/

open Sys2Proof Sys2Proof.Machine

/-! Reset, the step, decoding -/

/-- 10_state.md R27 (the spec's own decision D20: "The source has no reset. This spec decides"). -/
def Obligations.ResetIsZeroAndInvalid : Prop :=
  State.reset.valid = false ∧ State.reset.rsp.status.code = 0 ∧ State.reset.rsp.out = [] ∧
  State.reset.rsp.oword = 0 ∧ State.reset.rsp.dCtype = 0 ∧ State.reset.rsp.dRetry = 0 ∧
  State.reset.rsp.dFwd = 0 ∧ State.reset.rsp.dSeq = 0 ∧ State.reset.rsp.dMeshb = 0 ∧
  State.reset.rsp.dCsum = 0 ∧ State.reset.rsp.csok = false

/-- 70_reset_and_hazards.md R139 (the spec's decision D20), in every state, whatever response it
clears. That the moves the host has still to make survive is the model's choice (log entry 5). -/
def Obligations.ResetMoveClearsResponse : Prop :=
  ∀ (s : State) (rest : List HostMove), s.inputs = .reset :: rest →
    step s = .next { s with rsp := .zero, valid := false, inputs := rest }

/-- 70_reset_and_hazards.md R142: "After the response the block performs nothing until the next
request." That such a step answers the same state is the model's choice (log entry 2). -/
def Obligations.IdleStepChangesNothing : Prop :=
  ∀ s : State, s.inputs = [] → step s = .next s

/-- A step on a request whose code is assigned is `exec` of the operation decoded from it, in the state
whose oldest host move has been taken. The list of host moves is the model's (log entry 2). -/
def Obligations.StepRunsDecodedOperation : Prop :=
  ∀ (s : State) (q : Request) (rest : List HostMove) (i : Instr),
    s.inputs = .request q :: rest → decodeRequest q = .ok i →
    step s = exec i { s with inputs := rest }

/-- 30_encoding.md R61: codes 0xC to 0xF (the spec's decision D10). The list of host moves is the
model's (log entry 2). -/
def Obligations.UnassignedCodeRaisesIllegalOp : Prop :=
  ∀ (s : State) (q : Request) (rest : List HostMove),
    s.inputs = .request q :: rest → 12 ≤ q.op.toNat →
    step s = .next { s with
      rsp := { Response.zero with status := .illegalOp }, valid := true, inputs := rest }

/-- 60_exceptions.md R122: IllegalOp for the unassigned codes, and by no assigned operation (the spec's
decision D10). -/
def Obligations.IllegalOpExactlyForUnassignedCodes : Prop :=
  ∀ (s : State) (q : Request) (rest : List HostMove), s.inputs = .request q :: rest →
    ∃ t, step s = .next t ∧ (t.rsp.status = .illegalOp ↔ q.op.toNat ∈ [0xC, 0xD, 0xE, 0xF])

/-- 30_encoding.md R59 and R60: the twelve assigned codes decode, the other four are refused by name,
and the operation is the one whose code `op` holds (the codes are the spec's decision D2). -/
def Obligations.DecodingIsTotalOnCodes : Prop :=
  ∀ q : Request,
    (q.op.toNat < 12 → ∃ i, decodeRequest q = .ok i ∧ i.opcode = q.op) ∧
    (12 ≤ q.op.toNat → decodeRequest q = .error (.unassigned q.op))

/-- Some words of the table, read as the rows they stand for (30_encoding.md R59). That the operands of a
table word are zero or empty is the model's choice (log entry 6). -/
def Obligations.TableWordsDecodeToTheirRows : Prop :=
  decodeTableWord 8 0x0 = some (.pack 0 0 0 0 0 []) ∧ decodeTableWord 8 0x1 = some (.hxor 0) ∧
  decodeTableWord 8 0x6 = some (.decode [] []) ∧ decodeTableWord 8 0x9 = some (.pair [] 0 0 []) ∧
  decodeTableWord 8 0xB = some (.fxcolor 0 0 false 0 0 0 0) ∧ decodeTableWord 8 0xC = none

/-- Decoding and encoding agree, both ways: a request decodes to `i` exactly when, its unread fields
set to zero, it is the request written for `i` (R16, R19, R59, R60). No operand field is dropped and
no other field is read. -/
def Obligations.DecodeEncodeAgree : Prop :=
  (∀ i : Instr, decodeRequest (encodeRequest i) = .ok i ∧ (encodeRequest i).op = i.opcode) ∧
  ∀ (q : Request) (i : Instr), decodeRequest q = .ok i ↔ clearUnread q = encodeRequest i

/-- 10_state.md R16: "A field an operation does not list in rule R19 is ignored by that operation,
whatever it holds." -/
def Obligations.UnreadFieldsAreIgnored : Prop :=
  ∀ (s : State) (p q : Request) (rest : List HostMove), clearUnread p = clearUnread q →
    step { s with inputs := .request p :: rest } = step { s with inputs := .request q :: rest }

/-! What each operation answers: its whole rule, for every request within the capacities. Each is the
operation's completion, its result, its errors and its frame at once: every field of the state not
named is unchanged, every response field not named is zero. -/

/-- 40_header_packer.md R71, with the byte-0 packing of R56 and the checksum of R67 and R69 written in
numbers. The bound PAYLOAD_MAX is the spec's decision D5, RANGE_MODE its D6, the order of the checks D7. -/
def Obligations.PackAnswersAsItsRule : Prop :=
  ∀ (retry ctype fwd seq meshb : Byte) (inp : Bytes) (s : State),
    (Instr.pack retry ctype fwd seq meshb inp).wf s.cfg = true →
    exec (.pack retry ctype fwd seq meshb inp) s = .next (
      if s.cfg.payloadMax.admits inp.length = false then
        { s with rsp := { Response.zero with status := .lengthError }, valid := true }
      else if s.cfg.rangeMode = .fault ∧ (15 < retry.toNat ∨ 7 < ctype.toNat ∨ 1 < fwd.toNat) then
        { s with rsp := { Response.zero with status := .rangeError }, valid := true }
      else
        let b0 : Nat := retry.toNat % 16 + 16 * (ctype.toNat % 8) + 128 * (fwd.toNat % 2)
        let csum : Nat := (b0 + seq.toNat + meshb.toNat + (inp.map BitVec.toNat).sum) % 256
        { s with
          rsp := { Response.zero with
            out := [BitVec.ofNat 8 b0, seq, meshb, BitVec.ofNat 8 csum] ++ inp }
          valid := true })

/-- 41_obfuscator.md R81. The bit order of `word` is the spec's decision D24. -/
def Obligations.HxorAnswersAsItsRule : Prop :=
  ∀ (word : Word32) (s : State),
    exec (.hxor word) s = .next { s with
      rsp := { Response.zero with oword := word ^^^ 0xC47B365E }, valid := true }

/-- 41_obfuscator.md R82. The length check is the spec's decision D24. -/
def Obligations.HxorbAnswersAsItsRule : Prop :=
  ∀ (inp : Bytes) (s : State), (Instr.hxorb inp).wf s.cfg = true →
    exec (.hxorb inp) s = .next (
      if inp.length ≠ 4 then
        { s with rsp := { Response.zero with status := .lengthError }, valid := true }
      else
        { s with
          rsp := { Response.zero with
            out := List.zipWith (fun a b => a ^^^ b) inp [0x5E, 0x36, 0x7B, 0xC4] }
          valid := true })

/-- 41_obfuscator.md R83. -/
def Obligations.PxorAnswersAsItsRule : Prop :=
  ∀ (inp key : Bytes) (s : State), (Instr.pxor inp key).wf s.cfg = true →
    exec (.pxor inp key) s = .next (
      if key.length ≠ 4 then
        { s with rsp := { Response.zero with status := .lengthError }, valid := true }
      else
        { s with
          rsp := { Response.zero with
            out := inp.mapIdx fun i b => b ^^^ key.getD (i % 4) 0 }
          valid := true })

/-- 42_frame_codec.md R86, with R85's frame written byte by byte. The bound PAYLOAD_MAX is the spec's
decision D5, RANGE_MODE its D6, the order of the checks D7. -/
def Obligations.EncodeAnswersAsItsRule : Prop :=
  ∀ (ctype retry seq meshb fwd : Byte) (inp key : Bytes) (s : State),
    (Instr.encode ctype retry seq meshb fwd inp key).wf s.cfg = true →
    exec (.encode ctype retry seq meshb fwd inp key) s = .next (
      if key.length ≠ 4 ∨ s.cfg.payloadMax.admits inp.length = false then
        { s with rsp := { Response.zero with status := .lengthError }, valid := true }
      else if s.cfg.rangeMode = .fault ∧ (15 < retry.toNat ∨ 7 < ctype.toNat ∨ 1 < fwd.toNat) then
        { s with rsp := { Response.zero with status := .rangeError }, valid := true }
      else
        let b0 : Nat := retry.toNat % 16 + 16 * (ctype.toNat % 8) + 128 * (fwd.toNat % 2)
        let csum : Nat := (b0 + seq.toNat + meshb.toNat + (inp.map BitVec.toNat).sum) % 256
        { s with
          rsp := { Response.zero with
            out := [BitVec.ofNat 8 b0 ^^^ 0x5E, seq ^^^ 0x36, meshb ^^^ 0x7B,
                BitVec.ofNat 8 csum ^^^ 0xC4] ++
              inp.mapIdx fun i b => b ^^^ key.getD (i % 4) 0 }
          valid := true })

/-- 42_frame_codec.md R87, the spec's reading of a variant the source only names (its decision D12; log
entry 8). -/
def Obligations.EncodehAnswersAsItsRule : Prop :=
  ∀ (inp key : Bytes) (s : State), (Instr.encodeh inp key).wf s.cfg = true →
    exec (.encodeh inp key) s = .next (
      if key.length ≠ 4 ∨ inp.length < 4 ∨ (s.cfg.payloadMax.plus 4).admits inp.length = false then
        { s with rsp := { Response.zero with status := .lengthError }, valid := true }
      else
        { s with
          rsp := { Response.zero with
            out := inp.take 4 ++ (inp.drop 4).mapIdx fun i b => b ^^^ key.getD (i % 4) 0 }
          valid := true })

/-- 42_frame_codec.md R90, with R89's fields and R92's `csok` written out. The checksum is recomputed
for `csok` alone and never makes the request fail (R91). PAYLOAD_MAX is the spec's decision D5, `csok` its
D11. -/
def Obligations.DecodeAnswersAsItsRule : Prop :=
  ∀ (inp key : Bytes) (s : State), (Instr.decode inp key).wf s.cfg = true →
    exec (.decode inp key) s = .next (
      if key.length ≠ 4 ∨ inp.length < 4 ∨ (s.cfg.payloadMax.plus 4).admits inp.length = false then
        { s with rsp := { Response.zero with status := .lengthError }, valid := true }
      else
        let b0 : Byte := inp.getD 0 0 ^^^ 0x5E
        let seq : Byte := inp.getD 1 0 ^^^ 0x36
        let meshb : Byte := inp.getD 2 0 ^^^ 0x7B
        let csum : Byte := inp.getD 3 0 ^^^ 0xC4
        let p : Bytes := (inp.drop 4).mapIdx fun i b => b ^^^ key.getD (i % 4) 0
        { s with
          rsp := { Response.zero with
            out := p
            dRetry := BitVec.ofNat 4 (b0.toNat % 16)
            dCtype := BitVec.ofNat 3 (b0.toNat / 16 % 8)
            dFwd := BitVec.ofNat 1 (b0.toNat / 128)
            dSeq := seq
            dMeshb := meshb
            dCsum := csum
            csok := decide (csum.toNat =
              (b0.toNat + seq.toNat + meshb.toNat + (p.map BitVec.toNat).sum) % 256) }
          valid := true })

/-- 43_pairing.md R101. -/
def Obligations.PairstdAnswersAsItsRule : Prop :=
  ∀ (devid : Bytes) (alo const : Byte) (key : Bytes) (s : State),
    (Instr.pairstd devid alo const key).wf s.cfg = true →
    exec (.pairstd devid alo const key) s = .next (
      if devid.length < 6 ∨ key.length ≠ 4 then
        { s with rsp := { Response.zero with status := .lengthError }, valid := true }
      else
        { s with
          rsp := { Response.zero with out := devid.take 6 ++ [alo, const] ++ key }
          valid := true })

/-- 43_pairing.md R102. -/
def Obligations.PairextAnswersAsItsRule : Prop :=
  ∀ (devid : Bytes) (alo ghi const : Byte) (key : Bytes) (s : State),
    (Instr.pairext devid alo ghi const key).wf s.cfg = true →
    exec (.pairext devid alo ghi const key) s = .next (
      if devid.length < 6 ∨ key.length ≠ 4 then
        { s with rsp := { Response.zero with status := .lengthError }, valid := true }
      else
        { s with
          rsp := { Response.zero with
            out := devid.take 6 ++ [alo, const] ++ key ++ [ghi, 0, 0, 0, 0, 0] }
          valid := true })

/-- 43_pairing.md R103, with R100's dispatch in numbers. `group` reaches no output byte (the spec's decisions D13 to D16; log entry 9). -/
def Obligations.PairAnswersAsItsRule : Prop :=
  ∀ (devid : Bytes) (addr : BitVec 16) (group : Byte) (key : Bytes) (s : State),
    (Instr.pair devid addr group key).wf s.cfg = true →
    exec (.pair devid addr group key) s = .next (
      if devid.length < 6 ∨ key.length ≠ 4 then
        { s with rsp := { Response.zero with status := .lengthError }, valid := true }
      else if 256 < addr.toNat then
        { s with
          rsp := { Response.zero with
            out := devid.take 6 ++ [BitVec.ofNat 8 (addr.toNat % 256), s.cfg.pairConst] ++ key ++
              [BitVec.ofNat 8 (addr.toNat / 256), 0, 0, 0, 0, 0] }
          valid := true }
      else
        { s with
          rsp := { Response.zero with
            out := devid.take 6 ++ [BitVec.ofNat 8 (addr.toNat % 256), s.cfg.pairConst] ++ key }
          valid := true })

/-- 44_effects.md R110, with R109's layout written out for each colour count; with four colours the
blue of the fourth is not emitted (R111, the spec's decision D17; log entry 10). -/
def Obligations.FxautoAnswersAsItsRule : Prop :=
  ∀ (colors : List Color) (speed : Byte) (s : State),
    exec (.fxauto colors speed) s = .next (
      if colors.length < 1 ∨ 4 < colors.length ∨ speed.toNat < 1 then
        { s with rsp := { Response.zero with status := .rangeError }, valid := true }
      else
        { s with
          rsp := { Response.zero with
            out := match colors with
              | [] => []
              | [c] => [0x00, 0x52, 0x04, 1, speed, c.r, c.g, c.b, 0, 0, 0, 0, 0, 0, 0, 0]
              | [c, d] => [0x00, 0x52, 0x04, 2, speed, c.r, c.g, c.b, d.r, d.g, d.b, 0, 0, 0, 0, 0]
              | [c, d, e] =>
                [0x00, 0x52, 0x04, 3, speed, c.r, c.g, c.b, d.r, d.g, d.b, e.r, e.g, e.b, 0, 0]
              | c :: d :: e :: f :: _ =>
                [0x00, 0x52, 0x04, 4, speed, c.r, c.g, c.b, d.r, d.g, d.b, e.r, e.g, e.b, f.r, f.g] }
          valid := true })

/-- 44_effects.md R113, with R112's layout. The bit for an absent mode is the spec's decision D19. -/
def Obligations.FxcolorAnswersAsItsRule : Prop :=
  ∀ (ta tb : Byte) (modePresent : Bool) (mode r g b : Byte) (s : State),
    exec (.fxcolor ta tb modePresent mode r g b) s = .next { s with
      rsp := { Response.zero with
        out := [0x93, ta, tb, 0x04, if modePresent then mode else 0xFF, r, g, b, 0, 0, 0, 0] }
      valid := true }

/-! Errors -/

/-- 60_exceptions.md R129 (the spec's decision D9). -/
def Obligations.RaiseLeavesOnlyItsStatus : Prop :=
  ∀ (e : ErrorKind) (s : State),
    (raise e s).rsp.status = e.status ∧ (raise e s).rsp.out = [] ∧ (raise e s).rsp.oword = 0 ∧
    (raise e s).rsp.dCtype = 0 ∧ (raise e s).rsp.dRetry = 0 ∧ (raise e s).rsp.dFwd = 0 ∧
    (raise e s).rsp.dSeq = 0 ∧ (raise e s).rsp.dMeshb = 0 ∧ (raise e s).rsp.dCsum = 0 ∧
    (raise e s).rsp.csok = false ∧ (raise e s).valid = true ∧ (raise e s).cfg = s.cfg ∧
    (raise e s).inputs = s.inputs

/-- 60_exceptions.md R123 (the spec's decision D8). -/
def Obligations.StatusCodesAreAsNumbered : Prop :=
  Status.ok.code = 0 ∧ ErrorKind.lengthError.status.code = 1 ∧
  ErrorKind.rangeError.status.code = 2 ∧ ErrorKind.illegalOp.status.code = 3

/-- 60_exceptions.md R120, R121 and R126, for every assigned operation: the tables of when an error is
raised, "in exactly these cases, and in no other", and LengthError before RangeError (the spec's
decision D7; log entry 11). That a sequence over its capacity can be presented at all, and counts only
where the operation reads it, is the model's reading (log entries 3 and 4). -/
def Obligations.StatusFollowsTheErrorTables : Prop :=
  ∀ (i : Instr) (s : State), ∃ t, exec i s = .next t ∧ t.rsp.status = statusOf s.cfg i

/-- 60_exceptions.md R120, last row: a request over a capacity is refused. For FXAUTO, which "never
raises LengthError", the count rule of R121 refuses it. The model's reading (log entries 3 and 4). -/
def Obligations.OverCapacityIsRefused : Prop :=
  ∀ (i : Instr) (s : State), s.cfg.wf = true → i.wf s.cfg = false →
    exec i s = .next (raise (if i.opcode = 0xA then .rangeError else .lengthError) s)

/-- 60_exceptions.md R130 and R129: a failing request has no effect but its status. -/
def Obligations.FailingRequestHasNoOtherEffect : Prop :=
  ∀ (i : Instr) (s t : State), exec i s = .next t → t.rsp.status ≠ .ok →
    t = { s with rsp := { Response.zero with status := t.rsp.status }, valid := true }

/-! The whole machine -/

/-- 70_reset_and_hazards.md R143: every request terminates, nothing stops the block. A step answers a
next state, takes one host move, and changes no parameter (10_state.md R22). The list of host moves and
the parameters as a field of the state are the model's (log entries 1 and 2). -/
def Obligations.EveryStepAnswersOneMove : Prop :=
  ∀ s : State, ∃ t, step s = .next t ∧ t.inputs = s.inputs.tail ∧ t.cfg = s.cfg ∧
    (∀ q rest, s.inputs = .request q :: rest → t.valid = true)

/-- 00_scope.md R12 and 10_state.md R24: an operation's response is a function of its operands (and the
parameters) alone; the response before it, `valid` and the host's other moves neither matter to it nor
change. -/
def Obligations.ResponseDependsOnOperandsAlone : Prop :=
  ∀ (c : Config) (i : Instr), ∃ r : Response, ∀ s : State, s.cfg = c →
    exec i s = .next { s with rsp := r, valid := true }

/-- 20_memory.md R36: presenting the same request again gives the same response and changes nothing
else. -/
def Obligations.OperationsAreIdempotent : Prop :=
  ∀ (i : Instr) (s t : State), exec i s = .next t → exec i t = .next t

/-- 70_reset_and_hazards.md R143: a run on a list of requests ends with the last response, which is the
response the last request alone would get, and `valid = 1`; with no request it ends where it began.
That the requests are a list in the state, and that none is left at the end, is the model's (log entry
2). -/
def Obligations.RunEndsWithTheLastResponse : Prop :=
  (∀ s : State, core.run 0 s = .next s) ∧
  ∀ (s : State) (qs : List Request) (q : Request),
    s.inputs = (qs ++ [q]).map HostMove.request →
    ∃ t : State, core.run (qs.length + 1) s = .next t ∧ t.valid = true ∧ t.inputs = [] ∧
      step { s with inputs := [.request q] } = .next t

/-- The invariant holds right after reset, whose RSP and `valid` are those of 10_state.md R27. That the
default parameters of 00_scope.md R6 stand in the reset state and fit together is the model's choice
and inference (log entries 1 and 13). -/
def Obligations.ResetMeetsTheStateInvariant : Prop :=
  State.reset.inv = true

/-- Every step keeps the invariant, from every state that meets it: `out` stays within OUT_CAP, an
error response carries nothing but its status, and RSP is as reset left it until a request completes
(20_memory.md R28, 60_exceptions.md R129, 10_state.md R15 and R27). The parameters stay as they are
(10_state.md R22); that they are a field of the state and fit together is the model's choice and
inference (log entries 1 and 13). -/
def Obligations.EveryStepKeepsTheStateInvariant : Prop :=
  ∀ s t : State, s.inv = true → step s = .next t → t.inv = true

/-! The header, the checksum and the packer -/

/-- 00_scope.md R9 and 20_memory.md R30: `le32` is the little-endian number of the four bytes, and
`bytes_le32` is its inverse. -/
def Obligations.HeaderWordIsLittleEndian : Prop :=
  (∀ h : Header, (le32 h).toNat =
    h.b0.toNat + 256 * h.seq.toNat + 65536 * h.meshb.toNat + 16777216 * h.csum.toNat) ∧
  (∀ h : Header, bytesLe32 (le32 h) = h) ∧ (∀ w : Word32, le32 (bytesLe32 w) = w)

/-- 30_encoding.md R57: unpacking byte 0 inverts packing it, both ways. -/
def Obligations.ByteZeroPacksAndUnpacks : Prop :=
  (∀ (retry ctype fwd : Byte) (h : Header), retry.toNat ≤ 15 → ctype.toNat ≤ 7 → fwd.toNat ≤ 1 →
    h.b0 = packB0 retry ctype fwd →
    (unpackHeader h).retry.toNat = retry.toNat ∧ (unpackHeader h).ctype.toNat = ctype.toNat ∧
    (unpackHeader h).fwd.toNat = fwd.toNat) ∧
  ∀ h : Header, packB0 ((unpackHeader h).retry.setWidth 8) ((unpackHeader h).ctype.setWidth 8)
    ((unpackHeader h).fwd.setWidth 8) = h.b0

/-- 40_header_packer.md R68: with RANGE_MODE = mask the three header fields are masked and the range is
not checked. -/
def Obligations.MaskModePacksMaskedFields : Prop :=
  ∀ (retry ctype fwd seq meshb : Byte) (inp key : Bytes) (s : State), s.cfg.rangeMode = .mask →
    exec (.pack retry ctype fwd seq meshb inp) s =
      exec (.pack (retry &&& 0x0F) (ctype &&& 0x07) (fwd &&& 0x01) seq meshb inp) s ∧
    exec (.encode ctype retry seq meshb fwd inp key) s =
      exec (.encode (ctype &&& 0x07) (retry &&& 0x0F) seq meshb (fwd &&& 0x01) inp key) s ∧
    ∃ t u, exec (.pack retry ctype fwd seq meshb inp) s = .next t ∧ t.rsp.status ≠ .rangeError ∧
      exec (.encode ctype retry seq meshb fwd inp key) s = .next u ∧ u.rsp.status ≠ .rangeError

/-- 40_header_packer.md R73(e): changing any one summed byte changes the checksum; adding to one byte
what is taken from another does not. -/
def Obligations.ChecksumSeesEverySingleByteChange : Prop :=
  (∀ (a b c a' b' c' x : Byte) (p p' : Bytes) (i : Nat), i < p.length + 3 →
    a' :: b' :: c' :: p' = (a :: b :: c :: p).set i x →
    (a :: b :: c :: p)[i]? ≠ some x → csum8 a' b' c' p' ≠ csum8 a b c p) ∧
  (∀ (a b c a' b' c' x y d : Byte) (p p' : Bytes) (i j : Nat), i ≠ j →
    (a :: b :: c :: p)[i]? = some x → (a :: b :: c :: p)[j]? = some y →
    a' :: b' :: c' :: p' = ((a :: b :: c :: p).set i (x + d)).set j (y - d) →
    csum8 a' b' c' p' = csum8 a b c p)

/-! The obfuscator -/

/-- 41_obfuscator.md R78. -/
def Obligations.HeaderTransformFormsAgree : Prop :=
  (∀ h : Header, hxorBytes h = bytesLe32 (hxor32 (le32 h))) ∧
  ∀ w : Word32, hxor32 w = le32 (hxorBytes (bytesLe32 w))

/-- 41_obfuscator.md R79: each transform undoes itself, keeps the length, and is a bijection on the
sequences of a length. -/
def Obligations.TransformsAreInvolutions : Prop :=
  (∀ w : Word32, hxor32 (hxor32 w) = w) ∧ (∀ h : Header, hxorBytes (hxorBytes h) = h) ∧
  (∀ (p : Bytes) (k : MeshKey), pxorBytes (pxorBytes p k) k = p) ∧
  (∀ h : Header, (hxorBytes h).bytes.length = h.bytes.length) ∧
  (∀ (p : Bytes) (k : MeshKey), (pxorBytes p k).length = p.length) ∧
  Function.Bijective hxor32 ∧ Function.Bijective hxorBytes ∧
  ∀ (q : Bytes) (k : MeshKey), ∃! p : Bytes, p.length = q.length ∧ pxorBytes p k = q

/-- 41_obfuscator.md R80: the constant shows, the key cancels between two frames, known plaintext gives
the key, and a split payload continues with the key rotated. -/
def Obligations.KeystreamIsShortAndRepeating : Prop :=
  hxorBytes ⟨0, 0, 0, 0⟩ = ⟨0x5E, 0x36, 0x7B, 0xC4⟩ ∧
  hxorBytes ⟨0xFF, 0xFF, 0xFF, 0xFF⟩ = ⟨0xA1, 0xC9, 0x84, 0x3B⟩ ∧
  (∀ (p q : Bytes) (k : MeshKey), p.length = q.length →
    List.zipWith (fun a b => a ^^^ b) (pxorBytes p k) (pxorBytes q k) =
      List.zipWith (fun a b => a ^^^ b) p q) ∧
  (∀ (p : Bytes) (k : MeshKey) (i : Nat), i < p.length →
    (pxorBytes p k).getD i 0 ^^^ p.getD i 0 = k.bytes.getD (i % 4) 0) ∧
  (∀ (a b : Bytes) (k : MeshKey), a.length % 4 = 0 →
    pxorBytes (a ++ b) k = pxorBytes a k ++ pxorBytes b k) ∧
  ∀ (a b : Bytes) (k : MeshKey),
    pxorBytes (a ++ b) k = pxorBytes a k ++ pxorBytes b
      ⟨k.byte a.length, k.byte (a.length + 1), k.byte (a.length + 2), k.byte (a.length + 3)⟩

/-- 41_obfuscator.md R84: counting the key from the start of the frame or of the payload is the same. -/
def Obligations.KeystreamPhaseSkipsTheHeader : Prop :=
  ∀ (h p : Bytes) (k : MeshKey), h.length = 4 →
    pxorFrom k 4 p = pxorBytes p k ∧ (pxorBytes (h ++ p) k).drop 4 = pxorBytes p k

/-! The frame codec -/

/-- 42_frame_codec.md R93: for all valid fields, payload and key, DECODE of what ENCODE answered
reproduces every field and the payload. -/
def Obligations.FrameRoundTrip : Prop :=
  ∀ (ctype retry seq meshb fwd : Byte) (p key : Bytes) (s : State), s.cfg.wf = true →
    ctype.toNat ≤ 7 → retry.toNat ≤ 15 → fwd.toNat ≤ 1 → key.length = 4 →
    s.cfg.payloadMax.admits p.length = true →
    ∃ t u, exec (.encode ctype retry seq meshb fwd p key) s = .next t ∧
      exec (.decode t.rsp.out key) t = .next u ∧ u.rsp.status = .ok ∧
      u.rsp.dCtype.toNat = ctype.toNat ∧ u.rsp.dRetry.toNat = retry.toNat ∧
      u.rsp.dSeq = seq ∧ u.rsp.dMeshb = meshb ∧ u.rsp.dFwd.toNat = fwd.toNat ∧
      u.rsp.dCsum = csum8 (packB0 retry ctype fwd) seq meshb p ∧ u.rsp.out = p

/-- 42_frame_codec.md R94: the checksum recovered from a frame ENCODE made is the sum of the decoded
bytes mod 256, and `csok` says so. -/
def Obligations.EncodedFramesDecodeWithCsok : Prop :=
  ∀ (ctype retry seq meshb fwd : Byte) (p key : Bytes) (s t u : State),
    exec (.encode ctype retry seq meshb fwd p key) s = .next t → t.rsp.status = .ok →
    exec (.decode t.rsp.out key) t = .next u → u.rsp.status = .ok → u.rsp.csok = true

/-- 42_frame_codec.md R91 and R95: a frame with another checksum byte decodes just as well; of the
response only `d_csum` and `csok` can differ. -/
def Obligations.DecodeNeverVerifiesTheChecksum : Prop :=
  ∀ (inp key : Bytes) (x : Byte) (s t u : State),
    exec (.decode inp key) s = .next t → exec (.decode (inp.set 3 x) key) s = .next u →
    u.rsp = { t.rsp with dCsum := u.rsp.dCsum, csok := u.rsp.csok }

/-- 42_frame_codec.md R90, corner cases, and 41_obfuscator.md R74: a wrong key changes only the payload
and `csok`, never the header fields. -/
def Obligations.WrongKeyLeavesHeaderFields : Prop :=
  ∀ (inp key key' : Bytes) (s t u : State), key.length = 4 → key'.length = 4 →
    exec (.decode inp key) s = .next t → exec (.decode inp key') s = .next u →
    u.rsp = { t.rsp with out := u.rsp.out, csok := u.rsp.csok } ∧
    u.rsp.out.length = t.rsp.out.length

/-- 42_frame_codec.md R96: re-encoding the decoded parts with the transmitted checksum gives the frame
back. -/
def Obligations.DecodedPartsRebuildTheFrame : Prop :=
  ∀ (inp : Bytes) (k : MeshKey) (s t : State),
    exec (.decode inp k.bytes) s = .next t → t.rsp.status = .ok →
    (hxorBytes ⟨packB0 (t.rsp.dRetry.setWidth 8) (t.rsp.dCtype.setWidth 8) (t.rsp.dFwd.setWidth 8),
      t.rsp.dSeq, t.rsp.dMeshb, t.rsp.dCsum⟩).bytes ++ pxorBytes t.rsp.out k = inp

/-- 42_frame_codec.md R97: ENCODE answers what PACK, then HXORB on the first four bytes and PXOR on the
rest, answer together. -/
def Obligations.EncodeIsPackThenTransforms : Prop :=
  ∀ (ctype retry seq meshb fwd : Byte) (p key : Bytes) (s t : State), s.cfg.wf = true →
    exec (.encode ctype retry seq meshb fwd p key) s = .next t → t.rsp.status = .ok →
    ∃ a b c, exec (.pack retry ctype fwd seq meshb p) s = .next a ∧ a.rsp.status = .ok ∧
      exec (.hxorb (a.rsp.out.take 4)) a = .next b ∧ b.rsp.status = .ok ∧
      exec (.pxor (a.rsp.out.drop 4) key) b = .next c ∧ c.rsp.status = .ok ∧
      t.rsp.out = b.rsp.out ++ c.rsp.out

/-- 42_frame_codec.md R97: DECODE's header is HXORB's on the first four bytes, unpacked, and its payload
is PXOR's on the rest. -/
def Obligations.DecodeIsTransformsThenUnpack : Prop :=
  ∀ (inp key : Bytes) (s t : State), s.cfg.wf = true →
    exec (.decode inp key) s = .next t → t.rsp.status = .ok →
    ∃ (h : Header) (a b : State), exec (.hxorb (inp.take 4)) s = .next a ∧ a.rsp.out = h.bytes ∧
      exec (.pxor (inp.drop 4) key) a = .next b ∧ b.rsp.status = .ok ∧ t.rsp.out = b.rsp.out ∧
      t.rsp.dRetry = (unpackHeader h).retry ∧ t.rsp.dCtype = (unpackHeader h).ctype ∧
      t.rsp.dFwd = (unpackHeader h).fwd ∧ t.rsp.dSeq = h.seq ∧ t.rsp.dMeshb = h.meshb ∧
      t.rsp.dCsum = h.csum

/-- 42_frame_codec.md R87, corner cases: given the obfuscated header ENCODE would make, ENCODEH answers
ENCODE's frame. -/
def Obligations.EncodehMatchesEncode : Prop :=
  ∀ (ctype retry seq meshb fwd : Byte) (p key : Bytes) (s t : State), s.cfg.wf = true →
    exec (.encode ctype retry seq meshb fwd p key) s = .next t → t.rsp.status = .ok →
    exec (.encodeh ((hxorBytes (plainHeader retry ctype fwd seq meshb p)).bytes ++ p) key) s = .next t

/-! Pairing and effects -/

/-- 30_encoding.md R66 and 43_pairing.md R100: PAIR is PAIRSTD or PAIREXT with operands derived from
`addr`, and `group` does not matter. -/
def Obligations.PairIsStandardOrExtended : Prop :=
  ∀ (devid : Bytes) (addr : BitVec 16) (group : Byte) (key : Bytes) (s : State),
    exec (.pair devid addr group key) s =
      if 256 < addr.toNat then
        exec (.pairext devid (BitVec.ofNat 8 addr.toNat) (BitVec.ofNat 8 (addr.toNat / 256))
          s.cfg.pairConst key) s
      else exec (.pairstd devid (BitVec.ofNat 8 addr.toNat) s.cfg.pairConst key) s

/-- 43_pairing.md R105. -/
def Obligations.PairingSizeLaw : Prop :=
  ∀ (devid : Bytes) (addr : BitVec 16) (group alo ghi const : Byte) (key : Bytes) (s t : State),
    t.rsp.status = .ok →
    (exec (.pair devid addr group key) s = .next t →
      t.rsp.out.length = if addr.toNat ≤ 256 then 12 else 18) ∧
    (exec (.pairstd devid alo const key) s = .next t → t.rsp.out.length = 12) ∧
    (exec (.pairext devid alo ghi const key) s = .next t → t.rsp.out.length = 18)

/-- 43_pairing.md R104 and R99: no byte of a record is obfuscated; the device id opens it and the key
stands in clear at indexes 8 to 11. -/
def Obligations.PairingRecordIsInClear : Prop :=
  ∀ (i : Instr) (devid key : Bytes) (addr : BitVec 16) (alo ghi const group : Byte) (s t : State),
    i ∈ [.pairstd devid alo const key, .pairext devid alo ghi const key,
      .pair devid addr group key] →
    exec i s = .next t → t.rsp.status = .ok →
    t.rsp.out.take 6 = devid.take 6 ∧ (t.rsp.out.drop 8).take 4 = key

/-- 44_effects.md R115. -/
def Obligations.EffectFixedSizeLaw : Prop :=
  (∀ (colors : List Color) (speed : Byte) (s t : State),
    exec (.fxauto colors speed) s = .next t → t.rsp.status = .ok → t.rsp.out.length = 16) ∧
  ∀ (ta tb : Byte) (modePresent : Bool) (mode r g b : Byte) (s t : State),
    exec (.fxcolor ta tb modePresent mode r g b) s = .next t → t.rsp.out.length = 12

/-- 44_effects.md R116: an effect payload, presented to ENCODE with good header fields and a key, is
accepted and gives a frame four bytes longer. -/
def Obligations.EffectPayloadsCanBeEncoded : Prop :=
  ∀ (i : Instr) (colors : List Color) (speed ta tb mode r g b ctype retry seq meshb fwd : Byte)
    (modePresent : Bool) (key : Bytes) (s t : State),
    i ∈ [.fxauto colors speed, .fxcolor ta tb modePresent mode r g b] →
    s.cfg.wf = true → s.cfg.payloadMax.admits 16 = true → key.length = 4 →
    ctype.toNat ≤ 7 → retry.toNat ≤ 15 → fwd.toNat ≤ 1 →
    exec i s = .next t → t.rsp.status = .ok →
    ∃ u, exec (.encode ctype retry seq meshb fwd t.rsp.out key) t = .next u ∧
      u.rsp.status = .ok ∧ u.rsp.out.length = t.rsp.out.length + 4

/-! The buffers -/

/-- 20_memory.md R29: MemRead returns `buf[i..i+n)`, MemWrite sets `out[i+k]` to `v[k]`, leaves every
other index alone and extends `out` to at least `i + n`; a whole-sequence assignment is MemWrite at 0
on an empty `out`. -/
def Obligations.BufferPrimitives : Prop :=
  (∀ (buf : Bytes) (i n : Nat), i + n ≤ buf.length →
    ∃ v, memRead buf i n = some v ∧ v.length = n ∧ ∀ k, k < n → v[k]? = buf[i + k]?) ∧
  (∀ (out v : Bytes) (i : Nat), i ≤ out.length →
    ∃ w, memWrite out i v = some w ∧ w.length = max out.length (i + v.length) ∧
      (∀ k, k < v.length → w[i + k]? = v[k]?) ∧
      (∀ j, j < i ∨ i + v.length ≤ j → w[j]? = out[j]?)) ∧
  (∀ v : Bytes, memWrite [] 0 v = some v)
end

