-- ==== Sys2Proof/Laws/Config.lean ====
section
/-! SUPPORT. Limits: what an ordering of limits gives, and what well-formed parameters admit. -/

namespace Sys2Proof

theorem Limit.admits_of_le {a b : Limit} (h : a.le b = true) {n : Nat} (hn : a.admits n = true) :
    b.admits n = true := by
  cases a <;> cases b <;> simp_all [Limit.le, Limit.admits]
  omega

theorem Limit.admits_mono {a : Limit} {m n : Nat} (h : m ≤ n) (hn : a.admits n = true) :
    a.admits m = true := by
  cases a <;> simp_all [Limit.admits]
  omega

theorem Limit.admits_plus {a : Limit} {n k : Nat} : (a.plus k).admits (n + k) = a.admits n := by
  cases a <;> simp [Limit.plus, Limit.admits]

/-- Well-formed parameters: an accepted payload fits IN_CAP, with and without its header. -/
theorem Config.inCap_frame {c : Config} (h : c.wf = true) {n : Nat}
    (hn : c.payloadMax.admits n = true) : c.inCap.admits (n + 4) = true := by
  simp only [Config.wf, Bool.and_eq_true] at h
  exact Limit.admits_of_le h.1.1.1.1.1 (by rw [Limit.admits_plus]; exact hn)

theorem Config.inCap_payload {c : Config} (h : c.wf = true) {n : Nat}
    (hn : c.payloadMax.admits n = true) : c.inCap.admits n = true :=
  Limit.admits_mono (Nat.le_add_right n 4) (Config.inCap_frame h hn)

theorem Config.outCap_of_inCap {c : Config} (h : c.wf = true) {n : Nat}
    (hn : c.inCap.admits n = true) : c.outCap.admits n = true := by
  simp only [Config.wf, Bool.and_eq_true] at h
  exact Limit.admits_of_le h.1.1.1.1.2 hn

theorem Config.outCap_eighteen {c : Config} (h : c.wf = true) : c.outCap.admits 18 = true := by
  simp only [Config.wf, Bool.and_eq_true] at h
  exact h.1.1.1.2

theorem Config.keyCap_four {c : Config} (h : c.wf = true) : c.keyCap.admits 4 = true := by
  simp only [Config.wf, Bool.and_eq_true] at h
  exact h.1.1.2

theorem Config.devidCap_six {c : Config} (h : c.wf = true) : c.devidCap.admits 6 = true := by
  simp only [Config.wf, Bool.and_eq_true] at h
  exact h.1.2

theorem Config.colorsCap_four {c : Config} (h : c.wf = true) : c.colorsCap.admits 4 = true := by
  simp only [Config.wf, Bool.and_eq_true] at h
  exact h.2

end Sys2Proof
end

