-- ==== Sys2Proof/Laws/Wire.lean ====
section
/-! SUPPORT. The byte views: lengths, the key index, sums. -/

namespace Sys2Proof.Machine

@[simp] theorem Header.bytes_length (h : Header) : h.bytes.length = 4 := rfl
@[simp] theorem MeshKey.bytes_length (k : MeshKey) : k.bytes.length = 4 := rfl
@[simp] theorem zeros_length (n : Nat) : (zeros n).length = n := by simp [zeros]

@[simp] theorem Header.take_bytes (h : Header) (p : Bytes) : (h.bytes ++ p).take 4 = h.bytes := rfl
@[simp] theorem Header.drop_bytes (h : Header) (p : Bytes) : (h.bytes ++ p).drop 4 = p := rfl

/-- A header and the rest, read off a byte sequence, are determined by it. -/
theorem Header.bytes_append_inj {a b : Header} {p q : Bytes} (h : a.bytes ++ p = b.bytes ++ q) :
    a = b ∧ p = q := by
  simp only [Header.bytes, List.cons_append, List.nil_append, List.cons.injEq] at h
  exact ⟨Header.ext h.1 h.2.1 h.2.2.1 h.2.2.2.1, h.2.2.2.2⟩

theorem MeshKey.bytes_inj {a b : MeshKey} (h : a.bytes = b.bytes) : a = b := by
  simp only [MeshKey.bytes, List.cons.injEq] at h
  exact MeshKey.ext h.1 h.2.1 h.2.2.1 h.2.2.2.1

/-- The key index looks at `i mod 4` alone. -/
theorem MeshKey.byte_mod (k : MeshKey) (i : Nat) : k.byte (i % 4) = k.byte i := by
  simp [MeshKey.byte]

theorem MeshKey.byte_congr (k : MeshKey) {i j : Nat} (h : i % 4 = j % 4) : k.byte i = k.byte j := by
  simp [MeshKey.byte, h]

/-- The key byte at `i` is byte `i mod 4` of the key as a sequence. -/
theorem MeshKey.byte_eq_getD (k : MeshKey) (i : Nat) : k.byte i = k.bytes.getD (i % 4) 0 := by
  have h : i % 4 < 4 := Nat.mod_lt _ (by decide)
  unfold MeshKey.byte
  generalize i % 4 = j at *
  match j, h with
  | 0, _ => rfl
  | 1, _ => rfl
  | 2, _ => rfl
  | 3, _ => rfl

theorem sumBytes_append (a b : Bytes) : sumBytes (a ++ b) = sumBytes a + sumBytes b := by
  induction a with
  | nil => simp [sumBytes]
  | cons x a ih => simp [sumBytes, ih]; omega

/-- Overwriting one byte moves the sum by the difference. -/
theorem sumBytes_set {l : Bytes} {i : Nat} {y : Byte} (x : Byte) (h : l[i]? = some y) :
    sumBytes (l.set i x) + y.toNat = sumBytes l + x.toNat := by
  induction l generalizing i with
  | nil => simp at h
  | cons a l ih =>
    cases i with
    | zero => simp at h; subst h; simp [sumBytes]; omega
    | succ i => simp at h; have := ih h; simp [sumBytes]; omega

theorem sumBytes_eq_sum (p : Bytes) : sumBytes p = (p.map BitVec.toNat).sum := by
  induction p with
  | nil => rfl
  | cons x p ih => simp [sumBytes, ih]

end Sys2Proof.Machine
end

