-- ==== Sys2Proof/Laws/Obfuscator.lean ====
section
/-! SUPPORT. The payload transform: its length, its bytes, and how a run splits. -/

namespace Sys2Proof.Machine

theorem pxorFrom_length (k : MeshKey) (j : Nat) (p : Bytes) :
    (pxorFrom k j p).length = p.length := by
  induction p generalizing j with
  | nil => rfl
  | cons b p ih => simp [pxorFrom, ih]

/-- Byte `i` of a run that starts at payload index `j`. -/
theorem pxorFrom_getElem? (k : MeshKey) (j i : Nat) (p : Bytes) :
    (pxorFrom k j p)[i]? = p[i]?.map (· ^^^ k.byte (j + i)) := by
  induction p generalizing j i with
  | nil => simp [pxorFrom]
  | cons b p ih =>
    cases i with
    | zero => simp [pxorFrom]
    | succ i => simp [pxorFrom, ih, Nat.add_comm, Nat.add_left_comm]

theorem pxorFrom_append (k : MeshKey) (j : Nat) (a b : Bytes) :
    pxorFrom k j (a ++ b) = pxorFrom k j a ++ pxorFrom k (j + a.length) b := by
  induction a generalizing j with
  | nil => simp [pxorFrom]
  | cons x a ih => simp [pxorFrom, ih, Nat.add_assoc, Nat.add_comm 1]

/-- Two keys that agree along a run transform it alike. -/
theorem pxorFrom_congr (k l : MeshKey) (j m : Nat) (p : Bytes)
    (h : ∀ i, k.byte (j + i) = l.byte (m + i)) : pxorFrom k j p = pxorFrom l m p := by
  apply List.ext_getElem?
  intro i
  simp [pxorFrom_getElem?, h]

/-- The transform as R77 writes it, over the key as a sequence. -/
theorem pxorBytes_eq_mapIdx (p : Bytes) (k : MeshKey) :
    pxorBytes p k = p.mapIdx fun i b => b ^^^ k.bytes.getD (i % 4) 0 := by
  apply List.ext_getElem?
  intro i
  simp [pxorBytes, pxorFrom_getElem?, MeshKey.byte_eq_getD]

end Sys2Proof.Machine
end

