-- ==== Sys2Proof/Laws/State.lean ====
section
/-! SUPPORT. One lemma per field of State per update, so that no later proof unfolds a record update. -/

namespace Sys2Proof.Machine

section updates
variable (s : State) (r : Response) (e : ErrorKind) (q : Request)

@[simp] theorem complete_rsp : (complete r s).rsp = r := rfl
@[simp] theorem complete_valid : (complete r s).valid = true := rfl
@[simp] theorem complete_cfg : (complete r s).cfg = s.cfg := rfl
@[simp] theorem complete_inputs : (complete r s).inputs = s.inputs := rfl

@[simp] theorem raise_rsp : (raise e s).rsp = { Response.zero with status := e.status } := rfl
@[simp] theorem raise_valid : (raise e s).valid = true := rfl
@[simp] theorem raise_cfg : (raise e s).cfg = s.cfg := rfl
@[simp] theorem raise_inputs : (raise e s).inputs = s.inputs := rfl

@[simp] theorem consume_rsp : s.consume.rsp = s.rsp := rfl
@[simp] theorem consume_valid : s.consume.valid = s.valid := rfl
@[simp] theorem consume_cfg : s.consume.cfg = s.cfg := rfl
@[simp] theorem consume_inputs : s.consume.inputs = s.inputs.tail := rfl

@[simp] theorem applyReset_rsp : (applyReset s).rsp = .zero := rfl
@[simp] theorem applyReset_valid : (applyReset s).valid = false := rfl
@[simp] theorem applyReset_cfg : (applyReset s).cfg = s.cfg := rfl
@[simp] theorem applyReset_inputs : (applyReset s).inputs = s.inputs := rfl

@[simp] theorem present_rsp : (s.present q).rsp = s.rsp := rfl
@[simp] theorem present_valid : (s.present q).valid = s.valid := rfl
@[simp] theorem present_cfg : (s.present q).cfg = s.cfg := rfl
@[simp] theorem present_inputs : (s.present q).inputs = s.inputs ++ [.request q] := rfl

@[simp] theorem requestReset_rsp : s.requestReset.rsp = s.rsp := rfl
@[simp] theorem requestReset_valid : s.requestReset.valid = s.valid := rfl
@[simp] theorem requestReset_cfg : s.requestReset.cfg = s.cfg := rfl
@[simp] theorem requestReset_inputs : s.requestReset.inputs = s.inputs ++ [.reset] := rfl

@[simp] theorem read_eq_rsp : s.read = s.rsp := rfl

end updates

section responses
variable (v : Bytes)

@[simp] theorem outResponse_status : (outResponse v).status = .ok := rfl
@[simp] theorem outResponse_out : (outResponse v).out = v := rfl
@[simp] theorem outResponse_oword : (outResponse v).oword = 0 := rfl
@[simp] theorem outResponse_csok : (outResponse v).csok = false := rfl
@[simp] theorem zero_status : Response.zero.status = .ok := rfl
@[simp] theorem zero_out : Response.zero.out = [] := rfl

end responses

end Sys2Proof.Machine
end

