-- ==== Sys2Proof/Laws/Ops.lean ====
section
/-! SUPPORT. Everything the shared operations can do, said once: the two ways a response ends, and the two buffer primitives. -/

namespace Sys2Proof.Machine

theorem respond_ok (s : State) (a : Response) : respond s (.ok a) = .next (complete a s) := rfl

theorem respond_error (s : State) (e : ErrorKind) : respond s (.error e) = .next (raise e s) := rfl

/-- A response is always a next state, made by completing or by raising. -/
theorem respond_cases (s : State) (r : Except ErrorKind Response) :
    (∃ a, r = .ok a ∧ respond s r = .next (complete a s)) ∨
      (∃ e, r = .error e ∧ respond s r = .next (raise e s)) := by
  cases r with
  | ok a => exact .inl ⟨a, rfl, rfl⟩
  | error e => exact .inr ⟨e, rfl, rfl⟩

/-- The response record a request is left with: its own, or the error's status alone. -/
def responseOf : Except ErrorKind Response → Response
  | .ok a => a
  | .error e => { Response.zero with status := e.status }

@[simp] theorem responseOf_ok (a : Response) : responseOf (.ok a) = a := rfl

@[simp] theorem responseOf_error (e : ErrorKind) :
    responseOf (.error e) = { Response.zero with status := e.status } := rfl

/-- Whatever the response, it is written whole and the rest of the state stands still. -/
theorem respond_eq (s : State) (r : Except ErrorKind Response) :
    respond s r = .next (complete (responseOf r) s) := by
  cases r <;> rfl

theorem respond_next {s t : State} {r : Except ErrorKind Response} (h : respond s r = .next t) :
    t = complete (responseOf r) s := by
  rw [respond_eq] at h
  exact (Host.Outcome.next.inj h).symm

/-- What an assigned operation answers: never IllegalOp, and status OK on every complete response. -/
def Answers (r : Except ErrorKind Response) : Prop :=
  r ≠ .error .illegalOp ∧ ∀ a, r = .ok a → a.status = .ok

theorem errorKind_status_ne_ok (e : ErrorKind) : e.status ≠ .ok := by cases e <;> decide

theorem memRead_some {buf : Bytes} {i n : Nat} (h : i + n ≤ buf.length) :
    memRead buf i n = some ((buf.drop i).take n) := by simp [memRead, h]

theorem memRead_none {buf : Bytes} {i n : Nat} (h : buf.length < i + n) :
    memRead buf i n = none := by
  have : ¬ i + n ≤ buf.length := by omega
  simp [memRead, this]

theorem memWrite_some {out v : Bytes} {i : Nat} (h : i ≤ out.length) :
    memWrite out i v = some (out.take i ++ v ++ out.drop (i + v.length)) := by simp [memWrite, h]

end Sys2Proof.Machine
end

