-- ==== Sys2Proof/Laws/Operands.lean ====
section
/-! SUPPORT. One lemma for each reader of an operand: what it answers, as one conditional. -/

namespace Sys2Proof.Machine

@[simp] theorem require_true (e : ErrorKind) : require true e = .ok () := rfl
@[simp] theorem require_false (e : ErrorKind) : require false e = .error e := rfl

@[simp] theorem ok_bind {ε α β : Type} (a : α) (f : α → Except ε β) :
    (Except.ok a >>= f) = f a := rfl

@[simp] theorem error_bind {ε α β : Type} (e : ε) (f : α → Except ε β) :
    ((Except.error e : Except ε α) >>= f) = .error e := rfl

@[simp] theorem pure_ok {ε α : Type} (a : α) : (pure a : Except ε α) = .ok a := rfl

/-- A key of 4 bytes is read when it is within its capacity. -/
theorem readKey_bytes (c : Config) (k : MeshKey) :
    readKey c k.bytes =
      if c.keyCap.admits 4 = true then .ok k else .error .lengthError := by
  cases h : c.keyCap.admits 4 <;> simp [readKey, h, MeshKey.bytes]

/-- A key of any other length is LengthError. -/
theorem readKey_error {c : Config} {key : Bytes} (h : key.length ≠ 4) :
    readKey c key = .error .lengthError := by
  cases hc : c.keyCap.admits key.length with
  | false => simp [readKey, hc]
  | true =>
    rcases key with _ | ⟨k0, _ | ⟨k1, _ | ⟨k2, _ | ⟨k3, _ | ⟨k4, t⟩⟩⟩⟩⟩ <;>
      simp_all [readKey]

/-- A sequence of 4 bytes is a key. -/
theorem exists_key_of_length {key : Bytes} (h : key.length = 4) : ∃ k : MeshKey, key = k.bytes := by
  rcases key with _ | ⟨a, _ | ⟨b, _ | ⟨c, _ | ⟨d, _ | ⟨e, t⟩⟩⟩⟩⟩ <;> simp at h
  exact ⟨⟨a, b, c, d⟩, rfl⟩

theorem readPayload_eq (c : Config) (inp : Bytes) :
    readPayload c inp =
      if c.inCap.admits inp.length = true ∧ c.payloadMax.admits inp.length = true then .ok inp
      else .error .lengthError := by
  cases h1 : c.inCap.admits inp.length <;> cases h2 : c.payloadMax.admits inp.length <;>
    simp [readPayload, h1, h2]

theorem readBytes_eq (c : Config) (inp : Bytes) :
    readBytes c inp =
      if c.inCap.admits inp.length = true then .ok inp else .error .lengthError := by
  cases h1 : c.inCap.admits inp.length <;> simp [readBytes, h1]

/-- A header is read wherever there are 4 bytes. -/
theorem readHeader_bytes (h : Header) (p : Bytes) : readHeader (h.bytes ++ p) = .ok h := by
  simp [readHeader, memRead, hdrLen, Header.bytes]

theorem readHeader_short {buf : Bytes} (h : buf.length < 4) :
    readHeader buf = .error .lengthError := by
  simp [readHeader, memRead_none (i := 0) (n := hdrLen) (by simpa [hdrLen] using h)]

/-- A buffer of 4 bytes or more is a header and the rest. -/
theorem exists_header_of_length {buf : Bytes} (h : 4 ≤ buf.length) :
    ∃ (d : Header) (p : Bytes), buf = d.bytes ++ p := by
  rcases buf with _ | ⟨a, _ | ⟨b, _ | ⟨c, _ | ⟨d, t⟩⟩⟩⟩ <;> simp at h
  exact ⟨⟨a, b, c, d⟩, t, rfl⟩

theorem readHeaderOnly_eq (c : Config) (h : Header) :
    readHeaderOnly c h.bytes =
      if c.inCap.admits 4 = true then .ok h else .error .lengthError := by
  have := readHeader_bytes h []
  simp only [List.append_nil] at this
  cases h1 : c.inCap.admits 4 <;> simp [readHeaderOnly, h1, this, hdrLen]

theorem readHeaderOnly_error {c : Config} {inp : Bytes} (h : inp.length ≠ 4) :
    readHeaderOnly c inp = .error .lengthError := by
  cases h1 : c.inCap.admits inp.length <;> simp [readHeaderOnly, h1, beq_eq_false_iff_ne.mpr h, hdrLen]

theorem readFrame_eq (c : Config) (h : Header) (p : Bytes) :
    readFrame c (h.bytes ++ p) =
      if c.inCap.admits (p.length + 4) = true ∧ c.payloadMax.admits p.length = true then .ok (h, p)
      else .error .lengthError := by
  have hl : (h.bytes ++ p).length = p.length + 4 := by simp; omega
  cases h1 : c.inCap.admits (p.length + 4) <;> cases h2 : c.payloadMax.admits p.length <;>
    simp [readFrame, hl, hdrLen, Limit.admits_plus, h1, h2, readHeader_bytes, -List.length_append]

theorem readFrame_short {c : Config} {inp : Bytes} (h : inp.length < 4) :
    readFrame c inp = .error .lengthError := by
  cases h1 : c.inCap.admits inp.length <;>
    cases h2 : (c.payloadMax.plus hdrLen).admits inp.length <;>
    simp [readFrame, h1, h2, readHeader_short h]

theorem readDevid_eq (c : Config) (devid : Bytes) :
    readDevid c devid =
      if c.devidCap.admits devid.length = true ∧ 6 ≤ devid.length then .ok (devid.take 6)
      else .error .lengthError := by
  cases h1 : c.devidCap.admits devid.length <;> by_cases h2 : 6 ≤ devid.length <;>
    simp [readDevid, h1, h2, memRead, devidLen]

theorem checkHeaderFields_eq (c : Config) (retry ctype fwd : Byte) :
    checkHeaderFields c retry ctype fwd =
      if c.rangeMode = .fault ∧ (15 < retry.toNat ∨ 7 < ctype.toNat ∨ 1 < fwd.toNat)
      then .error .rangeError else .ok () := by
  cases hm : c.rangeMode with
  | mask => simp [checkHeaderFields, hm]
  | fault =>
    by_cases h : 15 < retry.toNat ∨ 7 < ctype.toNat ∨ 1 < fwd.toNat
    · have : hdrFieldsOk retry ctype fwd = false := by simp [hdrFieldsOk]; omega
      simp [checkHeaderFields, hm, this, h, beq_eq_false_iff_ne.mpr (show RangeMode.fault ≠ .mask by decide)]
    · have : hdrFieldsOk retry ctype fwd = true := by simp [hdrFieldsOk]; omega
      simp [checkHeaderFields, hm, this, h]

theorem checkEffect_eq (colors : List Color) (speed : Byte) :
    checkEffect colors speed =
      if 1 ≤ colors.length ∧ colors.length ≤ 4 ∧ 1 ≤ speed.toNat then .ok ()
      else .error .rangeError := by
  by_cases h1 : 1 ≤ colors.length <;> by_cases h2 : colors.length ≤ 4 <;>
    by_cases h3 : 1 ≤ speed.toNat <;> simp [checkEffect, fxautoMaxColors, h1, h2, h3]

/-- The address split and the threshold in numbers (30_encoding.md R58, 43_pairing.md R100). -/
theorem addressLow_eq (addr : BitVec 16) : addressLow addr = BitVec.ofNat 8 addr.toNat := by
  apply BitVec.eq_of_toNat_eq
  simp [addressLow]

theorem addressHigh_eq (addr : BitVec 16) :
    addressHigh addr = BitVec.ofNat 8 (addr.toNat / 256) := by
  apply BitVec.eq_of_toNat_eq
  simp [addressHigh, Nat.shiftRight_eq_div_pow]

theorem pairExtThreshold_lt (addr : BitVec 16) : pairExtThreshold < addr ↔ 256 < addr.toNat := by
  simp [pairExtThreshold, BitVec.lt_def]

end Sys2Proof.Machine
end

