-- ==== Sys2Proof/Laws/Packer.lean ====
section
/-! SUPPORT. Byte 0 and the checksum in numbers. -/

namespace Sys2Proof.Machine

/-- Byte 0 is the number its three masked fields make (30_encoding.md R46, R56). -/
theorem packB0_toNat (retry ctype fwd : Byte) :
    (packB0 retry ctype fwd).toNat =
      retry.toNat % 16 + 16 * (ctype.toNat % 8) + 128 * (fwd.toNat % 2) := by
  have hr : retry.toNat &&& 15 = retry.toNat % 16 := Nat.and_two_pow_sub_one_eq_mod _ 4
  have hc : ctype.toNat &&& 7 = ctype.toNat % 8 := Nat.and_two_pow_sub_one_eq_mod _ 3
  have hf : fwd.toNat &&& 1 = fwd.toNat % 2 := Nat.and_two_pow_sub_one_eq_mod _ 1
  have h1 := Nat.two_pow_add_eq_or_of_lt (i := 4) (b := retry.toNat % 16) (by omega)
    (ctype.toNat % 8)
  have h2 := Nat.two_pow_add_eq_or_of_lt (i := 7)
    (b := 2 ^ 4 * (ctype.toNat % 8) + retry.toNat % 16) (by omega) (fwd.toNat % 2)
  have h3 : (ctype.toNat % 8) <<< 4 % 256 = 2 ^ 4 * (ctype.toNat % 8) := by
    rw [Nat.shiftLeft_eq]; omega
  have h4 : (fwd.toNat % 2) <<< 7 % 256 = 2 ^ 7 * (fwd.toNat % 2) := by
    rw [Nat.shiftLeft_eq]; omega
  have h5 : (packB0 retry ctype fwd).toNat =
      (retry.toNat &&& 15 ||| (ctype.toNat &&& 7) <<< 4 % 256) ||| (fwd.toNat &&& 1) <<< 7 % 256 :=
    rfl
  rw [h5, hr, hc, hf, h3, h4, Nat.or_comm (retry.toNat % 16), ← h1, Nat.or_comm, ← h2]
  omega

/-- The three fields of byte 0 as numbers (30_encoding.md R57). -/
theorem unpackHeader_retry_toNat (h : Header) :
    (unpackHeader h).retry.toNat = h.b0.toNat % 16 := by
  simp [unpackHeader]

theorem unpackHeader_ctype_toNat (h : Header) :
    (unpackHeader h).ctype.toNat = h.b0.toNat / 16 % 8 := by
  simp [unpackHeader, Nat.shiftRight_eq_div_pow]

theorem unpackHeader_fwd_toNat (h : Header) :
    (unpackHeader h).fwd.toNat = h.b0.toNat / 128 := by
  have := h.b0.isLt
  simp [unpackHeader, Nat.shiftRight_eq_div_pow]
  omega

theorem csum8_toNat (b0 seq meshb : Byte) (p : Bytes) :
    (csum8 b0 seq meshb p).toNat = (b0.toNat + seq.toNat + meshb.toNat + sumBytes p) % 256 := by
  simp [csum8]

/-- The header PACK writes carries its own checksum. -/
theorem checksumMatches_plainHeader (retry ctype fwd seq meshb : Byte) (p : Bytes) :
    checksumMatches (plainHeader retry ctype fwd seq meshb p) p = true := by
  simp [checksumMatches, plainHeader]

end Sys2Proof.Machine
end

