-- ==== Sys2Proof/Laws/Exec.lean ====
section
/-! SUPPORT. One lemma for each meaning: what it answers, its readers resolved, on operands already split into header, key and rest. Any other length of a key, header or frame is the lemma about LengthError below it. -/

namespace Sys2Proof.Machine

variable (s : State)

theorem execPack_eq (retry ctype fwd seq meshb : Byte) (inp : Bytes) :
    execPack retry ctype fwd seq meshb inp s = respond s (
      if s.cfg.inCap.admits inp.length = true ∧ s.cfg.payloadMax.admits inp.length = true then
        if s.cfg.rangeMode = .fault ∧ (15 < retry.toNat ∨ 7 < ctype.toNat ∨ 1 < fwd.toNat)
        then .error .rangeError
        else .ok (outResponse (packHeader retry ctype fwd seq meshb inp))
      else .error .lengthError) := by
  simp only [execPack, readPayload_eq, checkHeaderFields_eq]
  split <;> simp only [ok_bind, error_bind]
  split <;> simp only [ok_bind, error_bind, pure_ok]

theorem execHxorb_eq (h : Header) :
    execHxorb h.bytes s = respond s (
      if s.cfg.inCap.admits 4 = true then .ok (outResponse (hxorBytes h).bytes)
      else .error .lengthError) := by
  simp only [execHxorb, readHeaderOnly_eq]
  split <;> simp only [ok_bind, error_bind, pure_ok]

theorem execHxorb_length {inp : Bytes} (h : inp.length ≠ 4) :
    execHxorb inp s = .next (raise .lengthError s) := by
  simp only [execHxorb, readHeaderOnly_error h, error_bind, respond_error]

theorem execPxor_eq (inp : Bytes) (k : MeshKey) :
    execPxor inp k.bytes s = respond s (
      if s.cfg.keyCap.admits 4 = true ∧ s.cfg.inCap.admits inp.length = true then
        .ok (outResponse (pxorBytes inp k))
      else .error .lengthError) := by
  cases h1 : s.cfg.keyCap.admits 4 <;> cases h2 : s.cfg.inCap.admits inp.length <;>
    simp [execPxor, readKey_bytes, readBytes_eq, h1, h2]

theorem execPxor_key {inp key : Bytes} (h : key.length ≠ 4) :
    execPxor inp key s = .next (raise .lengthError s) := by
  simp only [execPxor, readKey_error h, error_bind, respond_error]

theorem execEncode_eq (ctype retry seq meshb fwd : Byte) (inp : Bytes) (k : MeshKey) :
    execEncode ctype retry seq meshb fwd inp k.bytes s = respond s (
      if s.cfg.keyCap.admits 4 = true ∧ s.cfg.inCap.admits inp.length = true ∧
          s.cfg.payloadMax.admits inp.length = true then
        if s.cfg.rangeMode = .fault ∧ (15 < retry.toNat ∨ 7 < ctype.toNat ∨ 1 < fwd.toNat)
        then .error .rangeError
        else .ok (outResponse (encodeFrame ctype retry seq meshb fwd inp k))
      else .error .lengthError) := by
  cases h1 : s.cfg.keyCap.admits 4 <;> cases h2 : s.cfg.inCap.admits inp.length <;>
    cases h3 : s.cfg.payloadMax.admits inp.length <;>
    simp [execEncode, readKey_bytes, readPayload_eq, checkHeaderFields_eq, h1, h2, h3]
  split <;> simp

theorem execEncode_key {ctype retry seq meshb fwd : Byte} {inp key : Bytes} (h : key.length ≠ 4) :
    execEncode ctype retry seq meshb fwd inp key s = .next (raise .lengthError s) := by
  simp only [execEncode, readKey_error h, error_bind, respond_error]

theorem execEncodeh_eq (h : Header) (p : Bytes) (k : MeshKey) :
    execEncodeh (h.bytes ++ p) k.bytes s = respond s (
      if s.cfg.keyCap.admits 4 = true ∧ s.cfg.inCap.admits (p.length + 4) = true ∧
          s.cfg.payloadMax.admits p.length = true then
        .ok (outResponse (h.bytes ++ pxorBytes p k))
      else .error .lengthError) := by
  cases h1 : s.cfg.keyCap.admits 4 <;> cases h2 : s.cfg.inCap.admits (p.length + 4) <;>
    cases h3 : s.cfg.payloadMax.admits p.length <;>
    simp [execEncodeh, readKey_bytes, readFrame_eq, h1, h2, h3]

theorem execEncodeh_key {inp key : Bytes} (h : key.length ≠ 4) :
    execEncodeh inp key s = .next (raise .lengthError s) := by
  simp only [execEncodeh, readKey_error h, error_bind, respond_error]

theorem execEncodeh_short {inp : Bytes} (k : MeshKey) (h : inp.length < 4) :
    execEncodeh inp k.bytes s = .next (raise .lengthError s) := by
  simp only [execEncodeh, readKey_bytes, readFrame_short h]
  split <;> simp [respond_error]

theorem execDecode_eq (h : Header) (p : Bytes) (k : MeshKey) :
    execDecode (h.bytes ++ p) k.bytes s = respond s (
      if s.cfg.keyCap.admits 4 = true ∧ s.cfg.inCap.admits (p.length + 4) = true ∧
          s.cfg.payloadMax.admits p.length = true then
        .ok (decodeResponse h p k)
      else .error .lengthError) := by
  cases h1 : s.cfg.keyCap.admits 4 <;> cases h2 : s.cfg.inCap.admits (p.length + 4) <;>
    cases h3 : s.cfg.payloadMax.admits p.length <;>
    simp [execDecode, readKey_bytes, readFrame_eq, h1, h2, h3]

theorem execDecode_key {inp key : Bytes} (h : key.length ≠ 4) :
    execDecode inp key s = .next (raise .lengthError s) := by
  simp only [execDecode, readKey_error h, error_bind, respond_error]

theorem execDecode_short {inp : Bytes} (k : MeshKey) (h : inp.length < 4) :
    execDecode inp k.bytes s = .next (raise .lengthError s) := by
  simp only [execDecode, readKey_bytes, readFrame_short h]
  split <;> simp [respond_error]

theorem execPairstd_eq (devid : Bytes) (alo const : Byte) (k : MeshKey) :
    execPairstd devid alo const k.bytes s = respond s (
      if (s.cfg.devidCap.admits devid.length = true ∧ 6 ≤ devid.length) ∧
          s.cfg.keyCap.admits 4 = true then
        .ok (outResponse (pairStd (devid.take 6) alo const k))
      else .error .lengthError) := by
  cases h1 : s.cfg.keyCap.admits 4 <;>
    by_cases h2 : s.cfg.devidCap.admits devid.length = true ∧ 6 ≤ devid.length <;>
    simp [execPairstd, readKey_bytes, readDevid_eq, h1, h2]

theorem execPairext_eq (devid : Bytes) (alo ghi const : Byte) (k : MeshKey) :
    execPairext devid alo ghi const k.bytes s = respond s (
      if (s.cfg.devidCap.admits devid.length = true ∧ 6 ≤ devid.length) ∧
          s.cfg.keyCap.admits 4 = true then
        .ok (outResponse (pairExt (devid.take 6) alo ghi const k))
      else .error .lengthError) := by
  cases h1 : s.cfg.keyCap.admits 4 <;>
    by_cases h2 : s.cfg.devidCap.admits devid.length = true ∧ 6 ≤ devid.length <;>
    simp [execPairext, readKey_bytes, readDevid_eq, h1, h2]

theorem execPair_eq (devid : Bytes) (addr : BitVec 16) (group : Byte) (k : MeshKey) :
    execPair devid addr group k.bytes s = respond s (
      if (s.cfg.devidCap.admits devid.length = true ∧ 6 ≤ devid.length) ∧
          s.cfg.keyCap.admits 4 = true then
        .ok (outResponse (pairDispatch s.cfg.pairConst (devid.take 6) addr k))
      else .error .lengthError) := by
  cases h1 : s.cfg.keyCap.admits 4 <;>
    by_cases h2 : s.cfg.devidCap.admits devid.length = true ∧ 6 ≤ devid.length <;>
    simp [execPair, readKey_bytes, readDevid_eq, h1, h2]

theorem readDevid_readKey_error (c : Config) (devid : Bytes) {key : Bytes} (h : key.length ≠ 4)
    (f : Bytes → MeshKey → Except ErrorKind Response) :
    (do let d ← readDevid c devid; let k ← readKey c key; f d k) = .error .lengthError := by
  rw [readDevid_eq, readKey_error h]
  split <;> rfl

theorem execPairstd_key {devid key : Bytes} {alo const : Byte} (h : key.length ≠ 4) :
    execPairstd devid alo const key s = .next (raise .lengthError s) := by
  simp only [execPairstd, readDevid_readKey_error _ _ h, respond_error]

theorem execPairext_key {devid key : Bytes} {alo ghi const : Byte} (h : key.length ≠ 4) :
    execPairext devid alo ghi const key s = .next (raise .lengthError s) := by
  simp only [execPairext, readDevid_readKey_error _ _ h, respond_error]

theorem execPair_key {devid key : Bytes} {addr : BitVec 16} (group : Byte) (h : key.length ≠ 4) :
    execPair devid addr group key s = .next (raise .lengthError s) := by
  simp only [execPair, readDevid_readKey_error _ _ h, respond_error]

theorem execFxauto_eq (colors : List Color) (speed : Byte) :
    execFxauto colors speed s = respond s (
      if 1 ≤ colors.length ∧ colors.length ≤ 4 ∧ 1 ≤ speed.toNat then
        .ok (outResponse (fxAuto colors speed))
      else .error .rangeError) := by
  simp only [execFxauto, checkEffect_eq]
  split <;> simp only [ok_bind, error_bind, pure_ok]

/-! What an OK status says of the request and the response, for the operations other operations' inputs
come from. -/

theorem execEncode_ok {ctype retry seq meshb fwd : Byte} {p key : Bytes} {s t : State}
    (h : execEncode ctype retry seq meshb fwd p key s = .next t) (ho : t.rsp.status = .ok) :
    ∃ k : MeshKey, key = k.bytes ∧ s.cfg.keyCap.admits 4 = true ∧
      s.cfg.inCap.admits p.length = true ∧ s.cfg.payloadMax.admits p.length = true ∧
      ¬ (s.cfg.rangeMode = .fault ∧ (15 < retry.toNat ∨ 7 < ctype.toNat ∨ 1 < fwd.toNat)) ∧
      t = complete (outResponse (encodeFrame ctype retry seq meshb fwd p k)) s := by
  by_cases hk : key.length = 4
  · obtain ⟨k, rfl⟩ := exists_key_of_length hk
    rw [execEncode_eq] at h
    have h := respond_next h
    split_ifs at h with h1 h2
    · subst h; cases ho
    · exact ⟨k, rfl, h1.1, h1.2.1, h1.2.2, h2, h⟩
    · subst h; cases ho
  · rw [execEncode_key s hk] at h
    cases h; cases ho

theorem execDecode_ok {inp key : Bytes} {s t : State} (h : execDecode inp key s = .next t)
    (ho : t.rsp.status = .ok) :
    ∃ (k : MeshKey) (d : Header) (p : Bytes), key = k.bytes ∧ inp = d.bytes ++ p ∧
      s.cfg.keyCap.admits 4 = true ∧ s.cfg.inCap.admits (p.length + 4) = true ∧
      s.cfg.payloadMax.admits p.length = true ∧ t = complete (decodeResponse d p k) s := by
  by_cases hk : key.length = 4
  · obtain ⟨k, rfl⟩ := exists_key_of_length hk
    by_cases h4 : 4 ≤ inp.length
    · obtain ⟨d, p, rfl⟩ := exists_header_of_length h4
      rw [execDecode_eq] at h
      have h := respond_next h
      split_ifs at h with h1
      · exact ⟨k, d, p, rfl, rfl, h1.1, h1.2.1, h1.2.2, h⟩
      · subst h; cases ho
    · rw [execDecode_short s k (by omega)] at h
      cases h; cases ho
  · rw [execDecode_key s hk] at h
    cases h; cases ho

theorem execPairstd_ok {devid key : Bytes} {alo const : Byte} {s t : State}
    (h : execPairstd devid alo const key s = .next t) (ho : t.rsp.status = .ok) :
    ∃ k : MeshKey, key = k.bytes ∧ 6 ≤ devid.length ∧
      t.rsp.out = pairStd (devid.take 6) alo const k := by
  by_cases hk : key.length = 4
  · obtain ⟨k, rfl⟩ := exists_key_of_length hk
    rw [execPairstd_eq] at h
    have h := respond_next h
    split_ifs at h with h1
    · exact ⟨k, rfl, h1.1.2, by subst h; rfl⟩
    · subst h; cases ho
  · rw [execPairstd_key s hk] at h
    cases h; cases ho

theorem execPairext_ok {devid key : Bytes} {alo ghi const : Byte} {s t : State}
    (h : execPairext devid alo ghi const key s = .next t) (ho : t.rsp.status = .ok) :
    ∃ k : MeshKey, key = k.bytes ∧ 6 ≤ devid.length ∧
      t.rsp.out = pairExt (devid.take 6) alo ghi const k := by
  by_cases hk : key.length = 4
  · obtain ⟨k, rfl⟩ := exists_key_of_length hk
    rw [execPairext_eq] at h
    have h := respond_next h
    split_ifs at h with h1
    · exact ⟨k, rfl, h1.1.2, by subst h; rfl⟩
    · subst h; cases ho
  · rw [execPairext_key s hk] at h
    cases h; cases ho

/-! The inversion of `exec`. -/

theorem answers_ok {a : Response} (h : a.status = .ok) : Answers (.ok a) :=
  ⟨by simp, fun b hb => by cases hb; exact h⟩

/-- An operation that reads an operand and goes on answers, if the reader raises no IllegalOp. -/
theorem answers_bind {α : Type} {x : Except ErrorKind α} {f : α → Except ErrorKind Response}
    (hx : x ≠ .error .illegalOp) (hf : ∀ a, Answers (f a)) : Answers (x >>= f) := by
  cases x with
  | ok a => exact hf a
  | error e => exact ⟨fun h => hx (by simpa using h), by simp⟩

theorem readKey_ne (c : Config) (key : Bytes) : readKey c key ≠ .error .illegalOp := by
  by_cases h : key.length = 4
  · obtain ⟨k, rfl⟩ := exists_key_of_length h
    rw [readKey_bytes]; split <;> simp
  · simp [readKey_error h]

theorem readPayload_ne (c : Config) (inp : Bytes) : readPayload c inp ≠ .error .illegalOp := by
  rw [readPayload_eq]; split <;> simp

theorem readBytes_ne (c : Config) (inp : Bytes) : readBytes c inp ≠ .error .illegalOp := by
  rw [readBytes_eq]; split <;> simp

theorem readHeaderOnly_ne (c : Config) (inp : Bytes) :
    readHeaderOnly c inp ≠ .error .illegalOp := by
  by_cases h : inp.length = 4
  · obtain ⟨k, hk⟩ := exists_key_of_length h
    obtain rfl : inp = Header.bytes ⟨k.k0, k.k1, k.k2, k.k3⟩ := hk
    rw [readHeaderOnly_eq]; split <;> simp
  · simp [readHeaderOnly_error h]

theorem readFrame_ne (c : Config) (inp : Bytes) : readFrame c inp ≠ .error .illegalOp := by
  by_cases h : 4 ≤ inp.length
  · obtain ⟨d, p, rfl⟩ := exists_header_of_length h
    rw [readFrame_eq]; split <;> simp
  · simp [readFrame_short (Nat.lt_of_not_le h)]

theorem readDevid_ne (c : Config) (devid : Bytes) : readDevid c devid ≠ .error .illegalOp := by
  rw [readDevid_eq]; split <;> simp

theorem checkHeaderFields_ne (c : Config) (retry ctype fwd : Byte) :
    checkHeaderFields c retry ctype fwd ≠ .error .illegalOp := by
  rw [checkHeaderFields_eq]; split <;> simp

theorem checkEffect_ne (colors : List Color) (speed : Byte) :
    checkEffect colors speed ≠ .error .illegalOp := by
  rw [checkEffect_eq]; split <;> simp

/-- Every meaning is a response to the state it is given. The response looks at the parameters alone,
is never IllegalOp, and is a complete response with status OK or an error: all that a frame, a
noninterference or an invariant proof needs to know of `exec`. -/
theorem exec_responds (c : Config) (i : Instr) :
    ∃ r : Except ErrorKind Response, Answers r ∧
      ∀ s : State, s.cfg = c → exec i s = respond s r := by
  cases i <;> refine ⟨_, ?_, fun s h => by
    simp only [exec, execPack, execHxor, execHxorb, execPxor, execEncode, execEncodeh, execDecode,
      execPairstd, execPairext, execPair, execFxauto, execFxcolor, h]; rfl⟩
  case pack =>
    refine answers_bind (readPayload_ne _ _) fun _ => ?_
    exact answers_bind (checkHeaderFields_ne _ _ _ _) fun _ => answers_ok rfl
  case hxor => exact answers_ok rfl
  case hxorb => exact answers_bind (readHeaderOnly_ne _ _) fun _ => answers_ok rfl
  case pxor =>
    refine answers_bind (readKey_ne _ _) fun _ => ?_
    exact answers_bind (readBytes_ne _ _) fun _ => answers_ok rfl
  case encode =>
    refine answers_bind (readKey_ne _ _) fun _ => ?_
    refine answers_bind (readPayload_ne _ _) fun _ => ?_
    exact answers_bind (checkHeaderFields_ne _ _ _ _) fun _ => answers_ok rfl
  case encodeh =>
    refine answers_bind (readKey_ne _ _) fun _ => ?_
    exact answers_bind (readFrame_ne _ _) fun _ => answers_ok rfl
  case decode =>
    refine answers_bind (readKey_ne _ _) fun _ => ?_
    exact answers_bind (readFrame_ne _ _) fun _ => answers_ok rfl
  case pairstd =>
    refine answers_bind (readDevid_ne _ _) fun _ => ?_
    exact answers_bind (readKey_ne _ _) fun _ => answers_ok rfl
  case pairext =>
    refine answers_bind (readDevid_ne _ _) fun _ => ?_
    exact answers_bind (readKey_ne _ _) fun _ => answers_ok rfl
  case pair =>
    refine answers_bind (readDevid_ne _ _) fun _ => ?_
    exact answers_bind (readKey_ne _ _) fun _ => answers_ok rfl
  case fxauto => exact answers_bind (checkEffect_ne _ _) fun _ => answers_ok rfl
  case fxcolor => exact answers_ok rfl

end Sys2Proof.Machine
end

