-- ==== Sys2Proof/Laws/PerInstr.lean ====
section
/-! SUPPORT. Per-instruction statements about the syntax: the request written for an operation names it, decodes to it, and holds nothing the operation does not read (30_encoding.md R59, R60; 10_state.md R16, R19). -/

namespace Sys2Proof.Laws.RoundTrip

/-- The request written for `i` carries its code, decodes to `i`, and has every unread field clear. -/
def Statement (i : Instr) : Prop :=
  (encodeRequest i).op = i.opcode ∧ decodeRequest (encodeRequest i) = .ok i ∧
    clearUnread (encodeRequest i) = encodeRequest i

theorem pack (retry ctype fwd seq meshb : Byte) (inp : Bytes) :
    Statement (.pack retry ctype fwd seq meshb inp) := ⟨rfl, rfl, rfl⟩

theorem hxor (word : Word32) : Statement (.hxor word) := ⟨rfl, rfl, rfl⟩

theorem hxorb (inp : Bytes) : Statement (.hxorb inp) := ⟨rfl, rfl, rfl⟩

theorem pxor (inp key : Bytes) : Statement (.pxor inp key) := ⟨rfl, rfl, rfl⟩

theorem encode (ctype retry seq meshb fwd : Byte) (inp key : Bytes) :
    Statement (.encode ctype retry seq meshb fwd inp key) := ⟨rfl, rfl, rfl⟩

theorem encodeh (inp key : Bytes) : Statement (.encodeh inp key) := ⟨rfl, rfl, rfl⟩

theorem decode (inp key : Bytes) : Statement (.decode inp key) := ⟨rfl, rfl, rfl⟩

theorem pairstd (devid : Bytes) (alo const : Byte) (key : Bytes) :
    Statement (.pairstd devid alo const key) := ⟨rfl, rfl, rfl⟩

theorem pairext (devid : Bytes) (alo ghi const : Byte) (key : Bytes) :
    Statement (.pairext devid alo ghi const key) := ⟨rfl, rfl, rfl⟩

theorem pair (devid : Bytes) (addr : BitVec 16) (group : Byte) (key : Bytes) :
    Statement (.pair devid addr group key) := ⟨rfl, rfl, rfl⟩

theorem fxauto (colors : List Color) (speed : Byte) : Statement (.fxauto colors speed) :=
  ⟨rfl, rfl, rfl⟩

theorem fxcolor (ta tb : Byte) (modePresent : Bool) (mode r g b : Byte) :
    Statement (.fxcolor ta tb modePresent mode r g b) := ⟨rfl, rfl, rfl⟩

end Sys2Proof.Laws.RoundTrip
end

