-- ==== Sys2Proof/Laws/Step.lean ====
section
/-! SUPPORT. One lemma for each way a step can go, and runs one step at a time. -/

namespace Sys2Proof.Machine

theorem step_idle {s : State} (h : s.inputs = []) : step s = .next s := by simp [step, h]

theorem step_reset {s : State} {rest : List HostMove} (h : s.inputs = .reset :: rest) :
    step s = .next (applyReset s.consume) := by simp [step, h]

theorem step_assigned {s : State} {q : Request} {rest : List HostMove} {i : Instr}
    (h : s.inputs = .request q :: rest) (hd : decodeRequest q = .ok i) :
    step s = exec i s.consume := by simp [step, h, hd]

theorem step_unassigned {s : State} {q : Request} {rest : List HostMove} {e : DecodeError}
    (h : s.inputs = .request q :: rest) (hd : decodeRequest q = .error e) :
    step s = .next (raise .illegalOp s.consume) := by cases e; simp [step, h, hd]

theorem run_zero (s : State) : core.run 0 s = .next s := rfl

theorem run_succ {n : Nat} {s t : State} (h : step s = .next t) :
    core.run (n + 1) s = core.run n t := by
  have h' : core.step s = .next t := h
  simp only [Host.Core.run, h']

end Sys2Proof.Machine
end

