-- ==== Sys2Proof/Tests/Slice0.lean ====
section
/-! SUPPORT. Tests: words decode to the operations they stand for, ill-formed requests are refused, one step per operation on a vector of spec/95_test_vectors.md (named in each comment), and a witness for the hypotheses of every statement that has some. -/

namespace Sys2Proof.Tests

open Sys2Proof Sys2Proof.Machine

/-! Helpers -/

/-- The response a result carries. -/
def rspOf : Result → Option Response
  | .next t => some t.rsp
  | _ => none

/-- Status and output of an operation run in the reset state. -/
def answer (i : Instr) : Option (Status × Bytes) :=
  (rspOf (exec i State.reset)).map fun r => (r.status, r.out)

/-- The worked examples' key (document section 8). -/
def key4 : Bytes := [0x30, 0x32, 0x33, 0x36]

/-- The worked examples' device id (document section 8). -/
def dev6 : Bytes := [0xAA, 0xBB, 0xCC, 0xDD, 0xEE, 0xFF]

/-- The worked examples' payload (document section 8). -/
def pay5 : Bytes := [0x01, 0x64, 0xFF, 0xFF, 0xFF]

/-- The worked examples' frame (document section 8). -/
def frame9 : Bytes := [0x4E, 0x37, 0x7B, 0xB7, 0x31, 0x56, 0xCC, 0xC9, 0xCF]

/-- A colour. -/
def red : Color := ⟨0xFF, 0x00, 0x00⟩

/-- The state after reset of a block built with RANGE_MODE = mask. -/
def maskState : State := { State.reset with cfg := { Config.default with rangeMode := .mask } }

/-- The state after reset with these host moves to come. -/
def fed (ms : List HostMove) : State := { State.reset with inputs := ms }

/-! Decoding: the codes of 30_encoding.md R59, written out, and R61 -/

theorem test_decode_pack : decodeTableWord 8 0b0000 = some (.pack 0 0 0 0 0 []) := by decide
theorem test_decode_hxor : decodeTableWord 8 0b0001 = some (.hxor 0) := by decide
theorem test_decode_hxorb : decodeTableWord 8 0b0010 = some (.hxorb []) := by decide
theorem test_decode_pxor : decodeTableWord 8 0b0011 = some (.pxor [] []) := by decide
theorem test_decode_encode : decodeTableWord 8 0b0100 = some (.encode 0 0 0 0 0 [] []) := by decide
theorem test_decode_encodeh : decodeTableWord 8 0b0101 = some (.encodeh [] []) := by decide
theorem test_decode_decode : decodeTableWord 8 0b0110 = some (.decode [] []) := by decide
theorem test_decode_pairstd : decodeTableWord 8 0b0111 = some (.pairstd [] 0 0 []) := by decide
theorem test_decode_pairext : decodeTableWord 8 0b1000 = some (.pairext [] 0 0 0 []) := by decide
theorem test_decode_pair : decodeTableWord 8 0b1001 = some (.pair [] 0 0 []) := by decide
theorem test_decode_fxauto : decodeTableWord 8 0b1010 = some (.fxauto [] 0) := by decide
theorem test_decode_fxcolor :
    decodeTableWord 8 0b1011 = some (.fxcolor 0 0 false 0 0 0 0) := by decide

theorem test_decode_unassigned :
    [0b1100, 0b1101, 0b1110, 0b1111].map (decodeTableWord 8) = [none, none, none, none] := by
  decide

/-- The named fields reach the operation's operands: ENCODE of L1-4. -/
theorem test_decode_fields :
    decodeRequest { blankRequest 0x4 with
      ctype := 1, seq := 1, inp := pay5, key := key4, devid := dev6, speed := 9 } =
      .ok (.encode 1 0 1 0 0 pay5 key4) := by decide

theorem test_commandType :
    [0, 1, 2, 3, 4, 5, 6, 7].map commandType =
      [.statusQuery, .control, .pairing, .group, .scene, .reserved, .reserved, .reserved] := by
  decide

/-! WellFormed: one ill-formed term for each check -/

theorem test_wf_in : [Instr.pack 0 0 0 0 0 (zeros 25), .hxorb (zeros 25), .pxor (zeros 25) key4,
    .encode 0 0 0 0 0 (zeros 25) key4, .encodeh (zeros 25) key4, .decode (zeros 25) key4].map
      (Instr.wf Config.default) = [false, false, false, false, false, false] := by decide

theorem test_wf_key : [Instr.pxor [] (zeros 16), .encode 0 0 0 0 0 [] (zeros 16),
    .encodeh [] (zeros 16), .decode [] (zeros 16), .pairstd dev6 0 0 (zeros 16),
    .pairext dev6 0 0 0 (zeros 16), .pair dev6 0 0 (zeros 16)].map (Instr.wf Config.default) =
      [false, false, false, false, false, false, false] := by decide

theorem test_wf_devid : [Instr.pairstd (zeros 16) 0 0 key4, .pairext (zeros 16) 0 0 0 key4,
    .pair (zeros 16) 0 0 key4].map (Instr.wf Config.default) = [false, false, false] := by decide

theorem test_wf_colors :
    (Instr.fxauto (List.replicate 16 red) 1).wf Config.default = false := by decide

/-- At the capacities everything is well-formed. -/
theorem test_wf_full : (Instr.pack 0 0 0 0 0 (zeros 24)).wf Config.default = true ∧
    (Instr.decode (zeros 24) (zeros 15)).wf Config.default = true ∧
    (Instr.pair (zeros 15) 0 0 (zeros 15)).wf Config.default = true ∧
    (Instr.fxauto (List.replicate 15 red) 1).wf Config.default = true := by decide

/-! One operation each, on the vectors of 95_test_vectors.md -/

/-- V-PK5. -/
theorem test_pack_fields : answer (.pack 3 4 1 0x2A 0x80
    [1, 2, 3, 4, 5, 6, 7, 8, 9, 10, 11, 12, 13, 14, 15, 16, 17, 18, 19, 20]) =
    some (.ok, [0xC3, 0x2A, 0x80, 0x3F,
      1, 2, 3, 4, 5, 6, 7, 8, 9, 10, 11, 12, 13, 14, 15, 16, 17, 18, 19, 20]) := by decide

/-- V-PK3, V-PK9 to V-PK11, V-PK12, V-PK13. -/
theorem test_pack_edges : [answer (.pack 15 7 1 255 255 []), answer (.pack 16 1 0 0 0 []),
    answer (.pack 0 8 0 0 0 []), answer (.pack 0 1 2 0 0 []), answer (.pack 0 1 0 0 0 (zeros 21)),
    answer (.pack 16 1 0 0 0 (zeros 21))] =
    [some (.ok, [0xFF, 0xFF, 0xFF, 0xFD]), some (.rangeError, []), some (.rangeError, []),
      some (.rangeError, []), some (.lengthError, []), some (.lengthError, [])] := by decide

/-- V-PK14 and V-EN16. -/
theorem test_mask_mode :
    ((rspOf (exec (.pack 0x1F 9 0 0 0 []) maskState)).map (·.out),
      (rspOf (exec (.encode 9 0x1F 0 0 0 [] key4) maskState)).map (·.out)) =
    (some [0x1F, 0x00, 0x00, 0x1F], some [0x41, 0x36, 0x7B, 0xDB]) := by decide

/-- V-HX1 and V-HX4. -/
theorem test_hxor : [0x73000110, 0x78563412].map
    (fun w => (rspOf (exec (.hxor w) State.reset)).map fun r => (r.out, r.oword)) =
    [some ([], 0xB77B374E), some ([], 0xBC2D024C)] := by decide

/-- V-HB1, V-HB4, V-HB6, V-HB7. -/
theorem test_hxorb : [[0x10, 0x01, 0x00, 0x73], [0x12, 0x34, 0x56, 0x78], [0x10, 0x01, 0x00],
    [0x10, 0x01, 0x00, 0x73, 0x01]].map (fun b => answer (.hxorb b)) =
    [some (.ok, [0x4E, 0x37, 0x7B, 0xB7]), some (.ok, [0x4C, 0x02, 0x2D, 0xBC]),
      some (.lengthError, []), some (.lengthError, [])] := by decide

/-- V-PX4. -/
theorem test_pxor_period : answer (.pxor [0xAA, 0x55, 0xAA, 0x55, 0xAA, 0x55]
    [0xDE, 0xAD, 0xBE, 0xEF]) = some (.ok, [0x74, 0xF8, 0x14, 0xBA, 0x74, 0xF8]) := by decide

/-- V-PX5, V-PX7, V-PX8, V-PX9, and R83: 24 bytes of `in` are accepted. -/
theorem test_pxor_lengths : [answer (.pxor [] key4), answer (.pxor [1] [0x30, 0x32, 0x33]),
    answer (.pxor [1] [0x30, 0x32, 0x33, 0x36, 0x30]), answer (.pxor [] []),
    answer (.pxor (zeros 24) (zeros 4))] =
    [some (.ok, []), some (.lengthError, []), some (.lengthError, []), some (.lengthError, []),
      some (.ok, zeros 24)] := by decide

/-- V-EN1 (document section 8) and V-EN6. -/
theorem test_encode : [answer (.encode 1 0 1 0 0 pay5 key4),
    answer (.encode 3 2 0 1 1 [0xAA] [0xDE, 0xAD, 0xBE, 0xEF])] =
    [some (.ok, frame9), some (.ok, [0xEC, 0x36, 0x7A, 0x99, 0x74])] := by decide

/-- V-EN10 to V-EN15. -/
theorem test_encode_errors : [answer (.encode 8 0 0 0 0 [] key4), answer (.encode 1 16 0 0 0 [] key4),
    answer (.encode 1 0 0 0 2 [] key4), answer (.encode 1 0 0 0 0 [] [0x30, 0x32, 0x33]),
    answer (.encode 1 16 0 0 0 [] [0x30, 0x32, 0x33]), answer (.encode 1 0 0 0 0 (zeros 21) key4)] =
    [some (.rangeError, []), some (.rangeError, []), some (.rangeError, []), some (.lengthError, []),
      some (.lengthError, []), some (.lengthError, [])] := by decide

/-- V-EH1 to V-EH4. -/
theorem test_encodeh : [answer (.encodeh ([0x4E, 0x37, 0x7B, 0xB7] ++ pay5) key4),
    answer (.encodeh [0x4E, 0x37, 0x7B, 0xB7] key4), answer (.encodeh [0x4E, 0x37, 0x7B] key4),
    answer (.encodeh (zeros 5) key4)] =
    [some (.ok, frame9), some (.ok, [0x4E, 0x37, 0x7B, 0xB7]), some (.lengthError, []),
      some (.ok, [0, 0, 0, 0, 0x30])] := by decide

/-- V-DE1 (document section 8) and V-DE8. -/
theorem test_decode_op : [frame9, [0xFF, 0xFF, 0xFF, 0xFF, 0xFF, 0xFF, 0xFF, 0xFF, 0xFF]].map
    (fun f => rspOf (exec (.decode f key4) State.reset)) =
    [some { Response.zero with
        dCtype := 1, dSeq := 1, dCsum := 0x73, csok := true, out := pay5 },
      some { Response.zero with
        dCtype := 2, dRetry := 1, dFwd := 1, dSeq := 0xC9, dMeshb := 0x84, dCsum := 0x3B,
        out := [0xCF, 0xCD, 0xCC, 0xC9, 0xCF] }] := by decide

/-- V-DE9, V-DE10, V-DE11, V-DE12, and the longest frame. -/
theorem test_decode_lengths : [answer (.decode [0x4E, 0x37, 0x7B] key4), answer (.decode [] key4),
    answer (.decode [0x4E, 0x37, 0x7B, 0xB7] (key4 ++ [0])), answer (.decode (zeros 25) key4),
    answer (.decode (zeros 24) (zeros 4))] =
    [some (.lengthError, []), some (.lengthError, []), some (.lengthError, []),
      some (.lengthError, []), some (.ok, zeros 20)] := by decide

/-- V-PS1 (document section 8) to V-PS4. -/
theorem test_pairstd : [answer (.pairstd dev6 1 1 key4),
    answer (.pairstd (dev6 ++ [0x11, 0x22]) 0xFF 0 [1, 2, 3, 4]),
    answer (.pairstd [0xAA, 0xBB, 0xCC, 0xDD, 0xEE] 1 1 key4),
    answer (.pairstd dev6 1 1 [0x30, 0x32, 0x33])] =
    [some (.ok, dev6 ++ [0x01, 0x01, 0x30, 0x32, 0x33, 0x36]),
      some (.ok, dev6 ++ [0xFF, 0x00, 0x01, 0x02, 0x03, 0x04]), some (.lengthError, []),
      some (.lengthError, [])] := by decide

/-- V-PE1 and V-PE3. -/
theorem test_pairext : [answer (.pairext dev6 0x34 0x12 1 key4), answer (.pairext [] 0 0 1 key4)] =
    [some (.ok, dev6 ++ [0x34, 0x01, 0x30, 0x32, 0x33, 0x36, 0x12, 0, 0, 0, 0, 0]),
      some (.lengthError, [])] := by decide

/-- V-PAIR255, V-PAIR256, V-PAIR257, V-PAIR1234. -/
theorem test_pair_threshold : [255, 256, 257, 0x1234].map (fun a => answer (.pair dev6 a 7 key4)) =
    [some (.ok, dev6 ++ [0xFF, 0x01, 0x30, 0x32, 0x33, 0x36]),
      some (.ok, dev6 ++ [0x00, 0x01, 0x30, 0x32, 0x33, 0x36]),
      some (.ok, dev6 ++ [0x01, 0x01, 0x30, 0x32, 0x33, 0x36, 0x01, 0, 0, 0, 0, 0]),
      some (.ok, dev6 ++ [0x34, 0x01, 0x30, 0x32, 0x33, 0x36, 0x12, 0, 0, 0, 0, 0])] := by decide

/-- V-PAIRE1, V-PAIRE2, and R106 with R120: 15 bytes of device id are accepted, 16 are not. -/
theorem test_pair_lengths : [answer (.pair [0xAA, 0xBB, 0xCC, 0xDD, 0xEE] 1 0 key4),
    answer (.pair dev6 300 0 []), answer (.pair (zeros 16) 0 0 key4),
    answer (.pair (zeros 15) 0 0 (zeros 4))] =
    [some (.lengthError, []), some (.lengthError, []), some (.lengthError, []),
      some (.ok, [0, 0, 0, 0, 0, 0, 0, 1, 0, 0, 0, 0])] := by decide

/-- V-FX2 and V-FX4. -/
theorem test_fxauto : [answer (.fxauto [red, ⟨0, 0, 0xFF⟩] 0x10),
    answer (.fxauto [⟨0x11, 0x12, 0x13⟩, ⟨0x21, 0x22, 0x23⟩, ⟨0x31, 0x32, 0x33⟩,
      ⟨0x41, 0x42, 0x43⟩] 1)] =
    [some (.ok, [0x00, 0x52, 0x04, 0x02, 0x10, 0xFF, 0, 0, 0, 0, 0xFF, 0, 0, 0, 0, 0]),
      some (.ok, [0x00, 0x52, 0x04, 0x04, 0x01, 0x11, 0x12, 0x13, 0x21, 0x22, 0x23,
        0x31, 0x32, 0x33, 0x41, 0x42])] := by decide

/-- V-FX5, V-FX6, V-FX7. -/
theorem test_fxauto_errors : [answer (.fxauto [] 1), answer (.fxauto (List.replicate 5 red) 1),
    answer (.fxauto [red] 0)] =
    [some (.rangeError, []), some (.rangeError, []), some (.rangeError, [])] := by decide

/-- V-FC1 to V-FC4. -/
theorem test_fxcolor : [answer (.fxcolor 0 1 false 0x77 0xFF 0 0),
    answer (.fxcolor 0x12 0x34 true 0x05 1 2 3), answer (.fxcolor 0 1 true 0xFF 0xFF 0 0),
    answer (.fxcolor 0xFF 0xFF true 0 0 0 0)] =
    [some (.ok, [0x93, 0x00, 0x01, 0x04, 0xFF, 0xFF, 0, 0, 0, 0, 0, 0]),
      some (.ok, [0x93, 0x12, 0x34, 0x04, 0x05, 1, 2, 3, 0, 0, 0, 0]),
      some (.ok, [0x93, 0x00, 0x01, 0x04, 0xFF, 0xFF, 0, 0, 0, 0, 0, 0]),
      some (.ok, [0x93, 0xFF, 0xFF, 0x04, 0x00, 0, 0, 0, 0, 0, 0, 0])] := by decide

/-! The step -/

/-- V-OP3 through a table word: the first step after reset runs HXOR of a zero word. -/
theorem test_step_table_word :
    (rspOf (step (State.reset.withFetchWord 8 0x1))).map (fun r => (r.status, r.oword)) =
      some (.ok, 0xC47B365E) := by decide

/-- V-OP1, V-OP2. -/
theorem test_step_illegal : [0xC, 0xF].map (fun w =>
    (rspOf (step (State.reset.withFetchWord 8 w))).map fun r => (r.status.code, r.out)) =
    [some (3, []), some (3, [])] := by decide

/-- R139: reset clears the response of the request before it. -/
theorem test_step_reset :
    (rspOf (step { State.reset with
      rsp := outResponse key4, valid := true, inputs := [.reset] })) = some Response.zero := by
  decide

/-! Witnesses: a state and operands that meet the hypotheses of each statement, and of each clause at
the edge of its range -/

theorem test_hyp_ResetMoveClearsResponse :
    ({ State.reset with rsp := outResponse key4, valid := true, inputs := [.reset] } : State).inputs =
      .reset :: [] := rfl

theorem test_hyp_IdleStepChangesNothing : State.reset.inputs = [] := rfl

theorem test_hyp_StepRunsDecodedOperation :
    (fed [.request (encodeRequest (.hxor 1)), .reset]).inputs =
        .request (encodeRequest (.hxor 1)) :: [.reset] ∧
      decodeRequest (encodeRequest (.hxor 1)) = .ok (.hxor 1) := ⟨rfl, rfl⟩

theorem test_hyp_UnassignedCodeRaisesIllegalOp :
    (fed [.request (blankRequest 0xC)]).inputs = .request (blankRequest 0xC) :: [] ∧
      12 ≤ (blankRequest 0xC).op.toNat := by decide

theorem test_hyp_IllegalOpExactlyForUnassignedCodes :
    (fed [.request (blankRequest 0xB)]).inputs = .request (blankRequest 0xB) :: [] := rfl

theorem test_hyp_DecodingIsTotalOnCodes :
    (blankRequest 0xB).op.toNat < 12 ∧ 12 ≤ (blankRequest 0xC).op.toNat := by decide

theorem test_hyp_UnreadFieldsAreIgnored :
    clearUnread { blankRequest 0x1 with key := key4, devid := dev6 } =
      clearUnread (blankRequest 0x1) := by decide

theorem test_hyp_PackAnswersAsItsRule :
    (Instr.pack 15 7 1 255 255 (zeros 20)).wf State.reset.cfg = true ∧
      State.reset.cfg.payloadMax.admits (zeros 20).length = true ∧
      (Instr.pack 0 0 0 0 0 (zeros 21)).wf State.reset.cfg = true ∧
      State.reset.cfg.payloadMax.admits (zeros 21).length = false ∧
      State.reset.cfg.rangeMode = .fault := by decide

theorem test_hyp_HxorbAnswersAsItsRule :
    [zeros 3, zeros 4, zeros 5].map (fun b => (Instr.hxorb b).wf State.reset.cfg) =
      [true, true, true] := by decide

theorem test_hyp_PxorAnswersAsItsRule :
    [zeros 3, key4, zeros 5].map (fun k => (Instr.pxor (zeros 24) k).wf State.reset.cfg) =
      [true, true, true] := by decide

theorem test_hyp_EncodeAnswersAsItsRule :
    (Instr.encode 7 15 255 255 1 (zeros 20) key4).wf State.reset.cfg = true ∧
      State.reset.cfg.payloadMax.admits (zeros 20).length = true ∧
      (Instr.encode 8 0 0 0 0 (zeros 21) (zeros 3)).wf State.reset.cfg = true := by decide

theorem test_hyp_EncodehAnswersAsItsRule :
    [zeros 3, zeros 4, zeros 24].map (fun b =>
      ((Instr.encodeh b key4).wf State.reset.cfg,
        (State.reset.cfg.payloadMax.plus 4).admits b.length)) =
      [(true, true), (true, true), (true, true)] := by decide

theorem test_hyp_DecodeAnswersAsItsRule :
    [zeros 3, zeros 4, zeros 24].map (fun b =>
      ((Instr.decode b key4).wf State.reset.cfg,
        (State.reset.cfg.payloadMax.plus 4).admits b.length)) =
      [(true, true), (true, true), (true, true)] := by decide

theorem test_hyp_PairstdAnswersAsItsRule :
    [zeros 5, dev6, zeros 15].map (fun d => (Instr.pairstd d 1 1 key4).wf State.reset.cfg) =
      [true, true, true] := by decide

theorem test_hyp_PairextAnswersAsItsRule :
    [zeros 5, dev6, zeros 15].map (fun d => (Instr.pairext d 1 1 1 key4).wf State.reset.cfg) =
      [true, true, true] := by decide

theorem test_hyp_PairAnswersAsItsRule :
    [zeros 5, dev6, zeros 15].map (fun d => (Instr.pair d 256 1 key4).wf State.reset.cfg) =
      [true, true, true] := by decide

theorem test_hyp_OverCapacityIsRefused :
    State.reset.cfg.wf = true ∧ (Instr.pxor (zeros 25) key4).wf State.reset.cfg = false ∧
      (Instr.fxauto (List.replicate 16 red) 1).wf State.reset.cfg = false := by decide

theorem test_hyp_FailingRequestHasNoOtherEffect :
    ∃ t, exec (.hxorb []) State.reset = .next t ∧ t.rsp.status ≠ .ok := ⟨_, rfl, by decide⟩

theorem test_hyp_EveryStepAnswersOneMove :
    (fed [.request (blankRequest 0x2)]).inputs = .request (blankRequest 0x2) :: [] := rfl

theorem test_hyp_ResponseDependsOnOperandsAlone : maskState.cfg ≠ State.reset.cfg ∧
    (fed [.reset]).cfg = State.reset.cfg := by decide

theorem test_hyp_OperationsAreIdempotent :
    ∃ t, exec (.hxor 7) State.reset = .next t := ⟨_, rfl⟩

theorem test_hyp_RunEndsWithTheLastResponse :
    (fed [.request (blankRequest 0x2), .request (blankRequest 0x1)]).inputs =
      ([blankRequest 0x2] ++ [blankRequest 0x1]).map HostMove.request := rfl

theorem test_hyp_EveryStepKeepsTheStateInvariant :
    (fed [.request (blankRequest 0x1)]).inv = true ∧
      ∃ t, step (fed [.request (blankRequest 0x1)]) = .next t := ⟨by decide, _, rfl⟩

theorem test_hyp_ByteZeroPacksAndUnpacks :
    (15 : Byte).toNat ≤ 15 ∧ (7 : Byte).toNat ≤ 7 ∧ (1 : Byte).toNat ≤ 1 ∧
      (⟨0xFF, 0, 0, 0⟩ : Header).b0 = packB0 15 7 1 := by decide

theorem test_hyp_MaskModePacksMaskedFields : maskState.cfg.rangeMode = .mask := rfl

/-- Both clauses: the last payload byte changed, and the first header byte against the last. -/
theorem test_hyp_ChecksumSeesEverySingleByteChange :
    (3 < [(7 : Byte)].length + 3 ∧
      (1 : Byte) :: 2 :: 3 :: [9] = (1 :: 2 :: 3 :: [7] : Bytes).set 3 9 ∧
      (1 :: 2 :: 3 :: [7] : Bytes)[3]? ≠ some 9) ∧
    ((0 : Nat) ≠ 3 ∧ (1 :: 2 :: 3 :: [7] : Bytes)[0]? = some 1 ∧
      (1 :: 2 :: 3 :: [7] : Bytes)[3]? = some 7 ∧
      (6 : Byte) :: 2 :: 3 :: [2] =
        ((1 :: 2 :: 3 :: [7] : Bytes).set 0 (1 + 5)).set 3 (7 - 5)) := by decide

theorem test_hyp_KeystreamIsShortAndRepeating :
    pay5.length = (zeros 5).length ∧ 4 < pay5.length ∧ key4.length % 4 = 0 := by decide

theorem test_hyp_KeystreamPhaseSkipsTheHeader : (zeros 4).length = 4 := by decide

theorem test_hyp_FrameRoundTrip :
    State.reset.cfg.wf = true ∧ (7 : Byte).toNat ≤ 7 ∧ (15 : Byte).toNat ≤ 15 ∧
      (1 : Byte).toNat ≤ 1 ∧ key4.length = 4 ∧
      State.reset.cfg.payloadMax.admits (zeros 20).length = true := by decide

theorem test_hyp_EncodedFramesDecodeWithCsok :
    ∃ t u, exec (.encode 1 0 1 0 0 pay5 key4) State.reset = .next t ∧ t.rsp.status = .ok ∧
      exec (.decode t.rsp.out key4) t = .next u ∧ u.rsp.status = .ok :=
  ⟨_, _, rfl, by decide, rfl, by decide⟩

theorem test_hyp_DecodeNeverVerifiesTheChecksum :
    ∃ t u, exec (.decode frame9 key4) State.reset = .next t ∧
      exec (.decode (frame9.set 3 0) key4) State.reset = .next u := ⟨_, _, rfl, rfl⟩

theorem test_hyp_WrongKeyLeavesHeaderFields :
    ∃ t u, key4.length = 4 ∧ (zeros 4).length = 4 ∧
      exec (.decode frame9 key4) State.reset = .next t ∧
      exec (.decode frame9 (zeros 4)) State.reset = .next u := ⟨_, _, rfl, rfl, rfl, rfl⟩

theorem test_hyp_DecodedPartsRebuildTheFrame :
    ∃ t, exec (.decode frame9 (MeshKey.bytes ⟨0x30, 0x32, 0x33, 0x36⟩)) State.reset = .next t ∧
      t.rsp.status = .ok := ⟨_, rfl, by decide⟩

theorem test_hyp_EncodeIsPackThenTransforms :
    State.reset.cfg.wf = true ∧ ∃ t, exec (.encode 1 0 1 0 0 pay5 key4) State.reset = .next t ∧
      t.rsp.status = .ok := ⟨by decide, _, rfl, by decide⟩

theorem test_hyp_DecodeIsTransformsThenUnpack :
    State.reset.cfg.wf = true ∧ ∃ t, exec (.decode frame9 key4) State.reset = .next t ∧
      t.rsp.status = .ok := ⟨by decide, _, rfl, by decide⟩

theorem test_hyp_EncodehMatchesEncode :
    State.reset.cfg.wf = true ∧
      ∃ t, exec (.encode 7 15 255 255 1 (zeros 20) key4) State.reset = .next t ∧
        t.rsp.status = .ok := ⟨by decide, _, rfl, by decide⟩

/-- The three clauses of the size law, at addresses 256 and 257. -/
theorem test_hyp_PairingSizeLaw :
    (∃ t, exec (.pair dev6 256 0 key4) State.reset = .next t ∧ t.rsp.status = .ok) ∧
    (∃ t, exec (.pair dev6 257 0 key4) State.reset = .next t ∧ t.rsp.status = .ok) ∧
    (∃ t, exec (.pairstd dev6 0 0 key4) State.reset = .next t ∧ t.rsp.status = .ok) ∧
    (∃ t, exec (.pairext dev6 0 0 0 key4) State.reset = .next t ∧ t.rsp.status = .ok) :=
  ⟨⟨_, rfl, by decide⟩, ⟨_, rfl, by decide⟩, ⟨_, rfl, by decide⟩, ⟨_, rfl, by decide⟩⟩

theorem test_hyp_PairingRecordIsInClear :
    (Instr.pair dev6 257 0 key4) ∈ [Instr.pairstd dev6 0 0 key4, .pairext dev6 0 0 0 key4,
        .pair dev6 257 0 key4] ∧
      ∃ t, exec (.pair dev6 257 0 key4) State.reset = .next t ∧ t.rsp.status = .ok :=
  ⟨by decide, _, rfl, by decide⟩

theorem test_hyp_EffectFixedSizeLaw :
    (∃ t, exec (.fxauto (List.replicate 4 red) 1) State.reset = .next t ∧ t.rsp.status = .ok) ∧
      ∃ t, exec (.fxcolor 0 0 false 0 0 0 0) State.reset = .next t :=
  ⟨⟨_, rfl, by decide⟩, _, rfl⟩

theorem test_hyp_EffectPayloadsCanBeEncoded :
    (Instr.fxauto [red] 255) ∈ [Instr.fxauto [red] 255, .fxcolor 0 0 false 0 0 0 0] ∧
      State.reset.cfg.wf = true ∧ State.reset.cfg.payloadMax.admits 16 = true ∧ key4.length = 4 ∧
      (7 : Byte).toNat ≤ 7 ∧ (15 : Byte).toNat ≤ 15 ∧ (1 : Byte).toNat ≤ 1 ∧
      ∃ t, exec (.fxauto [red] 255) State.reset = .next t ∧ t.rsp.status = .ok :=
  ⟨by decide, by decide, by decide, rfl, by decide, by decide, by decide, _, rfl, by decide⟩

/-- Reading the whole buffer, and writing at its very end. -/
theorem test_hyp_BufferPrimitives :
    0 + 5 ≤ pay5.length ∧ 5 ≤ pay5.length ∧ memRead pay5 0 6 = none ∧
      memWrite pay5 6 [1] = none := by decide

end Sys2Proof.Tests
end

/-! The scope rules of 00_scope.md: the block's purity (R12) and the header word's two views (R9). -/

namespace Sys2Proof.Machine

/-- Settles O29: every meaning is a `respond` whose argument looks at the parameters alone, and
`respond` writes the whole response and nothing else beside `valid`. -/
theorem responseDependsOnOperandsAlone : Obligations.ResponseDependsOnOperandsAlone := by
  intro c i
  obtain ⟨r, -, hexec⟩ := exec_responds c i
  refine ⟨responseOf r, fun s hs => ?_⟩
  calc exec i s = respond s r := hexec s hs
    _ = .next (complete (responseOf r) s) := respond_eq s r

/-- A byte placed above the bits a word uses adds its shifted value: no bit meets another. -/
theorem or_shiftLeft_byte_toNat {w : Word32} {k : Nat} (hw : w.toNat < 2 ^ k) (hk : k + 8 ≤ 32)
    (b : Byte) : (w ||| b.setWidth 32 <<< k).toNat = w.toNat + 2 ^ k * b.toNat := by
  have hfit : b.toNat * 2 ^ k < 2 ^ 32 :=
    calc b.toNat * 2 ^ k < 2 ^ 8 * 2 ^ k := Nat.mul_lt_mul_of_pos_right b.isLt (Nat.two_pow_pos k)
      _ = 2 ^ (k + 8) := by rw [Nat.add_comm, Nat.pow_add]
      _ ≤ 2 ^ 32 := Nat.pow_le_pow_right (by decide) hk
  have hshift : (b.setWidth 32 <<< k).toNat = 2 ^ k * b.toNat := by
    rw [BitVec.toNat_shiftLeft, BitVec.toNat_setWidth_of_le (by decide), Nat.shiftLeft_eq,
      Nat.mod_eq_of_lt hfit, Nat.mul_comm]
  rw [BitVec.toNat_or, hshift, Nat.or_comm, ← Nat.two_pow_add_eq_or_of_lt hw, Nat.add_comm]

/-- The four bytes are the word's base-256 digits, byte 0 the lowest (00_scope.md R9). -/
theorem le32_toNat (h : Header) :
    (le32 h).toNat =
      h.b0.toNat + 256 * h.seq.toNat + 65536 * h.meshb.toNat + 16777216 * h.csum.toNat := by
  have h0 : (h.b0.setWidth 32).toNat = h.b0.toNat := BitVec.toNat_setWidth_of_le (by decide)
  have h1 := or_shiftLeft_byte_toNat (h0.trans_lt h.b0.isLt) (by decide) h.seq
  have h2 := or_shiftLeft_byte_toNat (k := 16) (h1.trans_lt (by omega)) (by decide) h.meshb
  have h3 := or_shiftLeft_byte_toNat (k := 24) (h2.trans_lt (by omega)) (by decide) h.csum
  rw [le32]
  omega

/-- The digits of a word make the word again. -/
theorem le32_bytesLe32 (w : Word32) : le32 (bytesLe32 w) = w := by
  apply BitVec.eq_of_toNat_eq
  simp only [le32_toNat, bytesLe32, BitVec.extractLsb'_toNat, Nat.shiftRight_eq_div_pow]
  omega

/-- Base-256 digits are unique. -/
theorem le32_inj {a b : Header} (h : le32 a = le32 b) : a = b := by
  have hnum := congrArg BitVec.toNat h
  rw [le32_toNat, le32_toNat] at hnum
  ext : 1 <;> apply BitVec.eq_of_toNat_eq <;> omega

theorem bytesLe32_le32 (h : Header) : bytesLe32 (le32 h) = h :=
  le32_inj (le32_bytesLe32 (le32 h))

/-- Settles O34: the word is the number its bytes are the digits of, so both inverses are digit
arithmetic. -/
theorem headerWordIsLittleEndian : Obligations.HeaderWordIsLittleEndian :=
  ⟨le32_toNat, bytesLe32_le32, le32_bytesLe32⟩

end Sys2Proof.Machine

/-! The state and its requests (10_state.md R16, R19, R27; 30_encoding.md R59, R60): reset, what the decoder reads of a request, and the step that runs it. -/

namespace Sys2Proof

/-- The per-operation laws as one. -/
theorem encodeRequest_roundTrip (i : Instr) : Laws.RoundTrip.Statement i := by
  cases i with
  | pack => exact Laws.RoundTrip.pack ..
  | hxor => exact Laws.RoundTrip.hxor ..
  | hxorb => exact Laws.RoundTrip.hxorb ..
  | pxor => exact Laws.RoundTrip.pxor ..
  | encode => exact Laws.RoundTrip.encode ..
  | encodeh => exact Laws.RoundTrip.encodeh ..
  | decode => exact Laws.RoundTrip.decode ..
  | pairstd => exact Laws.RoundTrip.pairstd ..
  | pairext => exact Laws.RoundTrip.pairext ..
  | pair => exact Laws.RoundTrip.pair ..
  | fxauto => exact Laws.RoundTrip.fxauto ..
  | fxcolor => exact Laws.RoundTrip.fxcolor ..

theorem encodeRequest_op (i : Instr) : (encodeRequest i).op = i.opcode :=
  let ⟨hop, _, _⟩ := encodeRequest_roundTrip i
  hop

theorem decodeRequest_encodeRequest (i : Instr) : decodeRequest (encodeRequest i) = .ok i :=
  let ⟨_, hdecode, _⟩ := encodeRequest_roundTrip i
  hdecode

/-- The decoder reads only the code and the fields that the "reads" column of R19 lists for it. -/
theorem decodeRequest_clearUnread (q : Request) :
    decodeRequest (clearUnread q) = decodeRequest q := by
  fun_cases decodeRequest q
  all_goals simp [clearUnread, decodeRequest, blankRequest, *]

/-- The decoder keeps every field that R19 lists for the code: what it drops was cleared.
The last case is the unassigned codes, which decode to no operation. -/
theorem clearUnread_of_decodeRequest {q : Request} {i : Instr} (h : decodeRequest q = .ok i) :
    clearUnread q = encodeRequest i := by
  revert h
  fun_cases decodeRequest q
  case case13 => nofun
  all_goals
    rintro ⟨⟩
    simp [clearUnread, encodeRequest, *]

theorem decodeRequest_eq_ok_iff (q : Request) (i : Instr) :
    decodeRequest q = .ok i ↔ clearUnread q = encodeRequest i := by
  refine ⟨clearUnread_of_decodeRequest, fun h => ?_⟩
  calc decodeRequest q = decodeRequest (clearUnread q) := (decodeRequest_clearUnread q).symm
    _ = decodeRequest (encodeRequest i) := congrArg decodeRequest h
    _ = .ok i := decodeRequest_encodeRequest i

theorem decodeRequest_congr {p q : Request} (h : clearUnread p = clearUnread q) :
    decodeRequest p = decodeRequest q := by
  rw [← decodeRequest_clearUnread p, h, decodeRequest_clearUnread]

/-- Settles O9: the encoder writes what the decoder reads, and the decoder reads exactly what
clearing the unread fields leaves. -/
theorem decodeEncodeAgree : Obligations.DecodeEncodeAgree :=
  ⟨fun i => ⟨decodeRequest_encodeRequest i, encodeRequest_op i⟩, decodeRequest_eq_ok_iff⟩

theorem Config.default_wf : Config.default.wf = true := by decide

namespace Machine

theorem State.consume_eq {s : State} {m : HostMove} {rest : List HostMove}
    (h : s.inputs = m :: rest) : s.consume = { s with inputs := rest } := by
  simp [State.consume, h]

/-- A step sees a request only through the decoder. -/
theorem step_request_congr (s : State) {p q : Request} (rest : List HostMove)
    (h : decodeRequest p = decodeRequest q) :
    step { s with inputs := .request p :: rest } = step { s with inputs := .request q :: rest } := by
  cases hq : decodeRequest q with
  | ok i => rw [step_assigned rfl (h.trans hq), step_assigned rfl hq]; rfl
  | error e => rw [step_unassigned rfl (h.trans hq), step_unassigned rfl hq]; rfl

/-- Settles O10: requests that agree where R19 says the operation looks decode alike, and a step sees
no more than that. -/
theorem unreadFieldsAreIgnored : Obligations.UnreadFieldsAreIgnored :=
  fun s _ _ rest h => step_request_congr s rest (decodeRequest_congr h)

/-- Settles O1: each field of the reset state, as R27 gives it. -/
theorem resetIsZeroAndInvalid : Obligations.ResetIsZeroAndInvalid :=
  ⟨rfl, rfl, rfl, rfl, rfl, rfl, rfl, rfl, rfl, rfl, rfl⟩

/-- Settles O4: the decoded operation runs where the oldest move has been taken. -/
theorem stepRunsDecodedOperation : Obligations.StepRunsDecodedOperation := by
  intro s q rest i hs hd
  rw [step_assigned hs hd, State.consume_eq hs]

/-- An all-zero RSP meets the invariant, whatever `valid` is: it is no error and takes no room. -/
theorem inv_of_rsp_zero {s : State} (hcfg : s.cfg.wf = true) (hrsp : s.rsp = .zero) :
    s.inv = true := by
  have hout : s.cfg.outCap.admits 0 = true :=
    Limit.admits_mono (Nat.zero_le 18) (Config.outCap_eighteen hcfg)
  simp [State.inv, hcfg, hrsp, hout]

/-- Settles O32: the defaults of R6 fit together, and reset leaves RSP all zero. -/
theorem resetMeetsTheStateInvariant : Obligations.ResetMeetsTheStateInvariant :=
  inv_of_rsp_zero Config.default_wf rfl

end Machine
end Sys2Proof

/-! The memory rules of 20_memory.md: the buffer primitives (R29), the capacity of `out` (R28) and what a repeated request leaves (R36). -/

namespace Sys2Proof

theorem Config.outCap_of_le_eighteen {c : Config} (h : c.wf = true) {n : Nat} (hn : n ≤ 18) :
    c.outCap.admits n = true :=
  Limit.admits_mono hn (Config.outCap_eighteen h)

theorem Config.outCap_payload {c : Config} (h : c.wf = true) {n : Nat}
    (hn : c.payloadMax.admits n = true) : c.outCap.admits n = true :=
  Config.outCap_of_inCap h (Config.inCap_payload h hn)

theorem Config.outCap_frame {c : Config} (h : c.wf = true) {n : Nat}
    (hn : c.payloadMax.admits n = true) : c.outCap.admits (n + 4) = true :=
  Config.outCap_of_inCap h (Config.inCap_frame h hn)

namespace Machine

/-! How long an operand is once its reader has accepted it. -/

theorem readPayload_ok {c : Config} {inp p : Bytes} (h : readPayload c inp = .ok p) :
    c.payloadMax.admits p.length = true := by
  rw [readPayload_eq] at h
  split_ifs at h with hfits
  cases h
  exact hfits.2

theorem readBytes_ok {c : Config} {inp p : Bytes} (h : readBytes c inp = .ok p) :
    c.inCap.admits p.length = true := by
  rw [readBytes_eq] at h
  split_ifs at h with hfits
  cases h
  exact hfits

theorem readFrame_ok {c : Config} {inp p : Bytes} {d : Header} (h : readFrame c inp = .ok (d, p)) :
    c.payloadMax.admits p.length = true := by
  by_cases h4 : 4 ≤ inp.length
  · obtain ⟨d', p', rfl⟩ := exists_header_of_length h4
    rw [readFrame_eq] at h
    split_ifs at h with hfits
    cases h
    exact hfits.2
  · rw [readFrame_short (Nat.lt_of_not_le h4)] at h
    cases h

theorem readDevid_ok {c : Config} {devid d : Bytes} (h : readDevid c devid = .ok d) :
    d.length = 6 := by
  rw [readDevid_eq] at h
  split_ifs at h with hfits
  cases h
  exact List.length_take_of_le hfits.2

/-! How long each operation's output is. -/

@[simp] theorem pxorBytes_length (p : Bytes) (k : MeshKey) : (pxorBytes p k).length = p.length :=
  pxorFrom_length k 0 p

@[simp] theorem packHeader_length (retry ctype fwd seq meshb : Byte) (p : Bytes) :
    (packHeader retry ctype fwd seq meshb p).length = p.length + 4 := by
  rw [packHeader, List.length_append, Header.bytes_length, Nat.add_comm]

theorem bytes_append_pxorBytes_length (h : Header) (p : Bytes) (k : MeshKey) :
    (h.bytes ++ pxorBytes p k).length = p.length + 4 := by
  rw [List.length_append, Header.bytes_length, pxorBytes_length, Nat.add_comm]

@[simp] theorem encodeFrame_length (ctype retry seq meshb fwd : Byte) (p : Bytes) (k : MeshKey) :
    (encodeFrame ctype retry seq meshb fwd p k).length = p.length + 4 :=
  bytes_append_pxorBytes_length _ p k

theorem pairStd_length {d : Bytes} (hd : d.length = 6) (a c : Byte) (k : MeshKey) :
    (pairStd d a c k).length = 12 := by
  simp [pairStd, hd]

theorem pairExt_length {d : Bytes} (hd : d.length = 6) (lo gh c : Byte) (k : MeshKey) :
    (pairExt d lo gh c k).length = 18 := by
  simp [pairExt, hd]

theorem pairDispatch_length_le {d : Bytes} (hd : d.length = 6) (c : Byte) (addr : BitVec 16)
    (k : MeshKey) : (pairDispatch c d addr k).length ≤ 18 := by
  rw [pairDispatch]
  split
  · exact (pairExt_length hd ..).le
  · exact (pairStd_length hd ..).trans_le (by decide)

theorem fxAuto_length (colors : List Color) (speed : Byte) : (fxAuto colors speed).length = 16 := by
  simp [fxAuto, fxautoLen]

/-! No operation overruns `out` (R28). -/

/-- The response a request is left with, error or not, leaves `out` within OUT_CAP. -/
def OutFits (c : Config) (r : Except ErrorKind Response) : Prop :=
  c.outCap.admits (responseOf r).out.length = true

theorem outFits_ok {c : Config} {a : Response} {n : Nat} (hlen : a.out.length = n)
    (hn : c.outCap.admits n = true) : OutFits c (.ok a) := by
  rwa [OutFits, responseOf_ok, hlen]

theorem outFits_error {c : Config} (h : c.wf = true) (e : ErrorKind) : OutFits c (.error e) :=
  Config.outCap_of_le_eighteen h (Nat.zero_le 18)

/-- An operation's response fits if it fits for every operand its reader accepts: a refusal leaves
`out` empty. -/
theorem outFits_bind {c : Config} (h : c.wf = true) {α : Type} {x : Except ErrorKind α}
    {f : α → Except ErrorKind Response} (hf : ∀ a, x = .ok a → OutFits c (f a)) :
    OutFits c (x >>= f) := by
  cases x with
  | ok a => exact hf a rfl
  | error e => exact outFits_error h e

theorem respond_out_fits {c : Config} {s t : State} {r : Except ErrorKind Response}
    (h : respond s r = .next t) (hr : OutFits c r) : c.outCap.admits t.rsp.out.length = true := by
  rw [respond_next h]
  exact hr

theorem exec_out_fits {i : Instr} {s t : State} (hwf : s.cfg.wf = true) (h : exec i s = .next t) :
    s.cfg.outCap.admits t.rsp.out.length = true := by
  have short {a : Response} (ha : a.out.length ≤ 18) : OutFits s.cfg (.ok a) :=
    Config.outCap_of_le_eighteen hwf ha
  cases i <;> simp only [exec, execHxor, execFxcolor] at h <;> refine respond_out_fits h ?_
  case pack =>
    refine outFits_bind hwf fun p hp => outFits_bind hwf fun _ _ => ?_
    exact outFits_ok (packHeader_length ..) (Config.outCap_frame hwf (readPayload_ok hp))
  case hxor => exact short (Nat.zero_le 18)
  case hxorb => exact outFits_bind hwf fun _ _ => short (by simp)
  case pxor =>
    refine outFits_bind hwf fun _ _ => outFits_bind hwf fun p hp => ?_
    exact outFits_ok (pxorBytes_length ..) (Config.outCap_of_inCap hwf (readBytes_ok hp))
  case encode =>
    refine outFits_bind hwf fun _ _ => outFits_bind hwf fun p hp => outFits_bind hwf fun _ _ => ?_
    exact outFits_ok (encodeFrame_length ..) (Config.outCap_frame hwf (readPayload_ok hp))
  case encodeh =>
    refine outFits_bind hwf fun _ _ => outFits_bind hwf fun (_, p) hp => ?_
    exact outFits_ok (bytes_append_pxorBytes_length ..) (Config.outCap_frame hwf (readFrame_ok hp))
  case decode =>
    refine outFits_bind hwf fun _ _ => outFits_bind hwf fun (_, p) hp => ?_
    exact outFits_ok (pxorBytes_length ..) (Config.outCap_payload hwf (readFrame_ok hp))
  case pairstd =>
    refine outFits_bind hwf fun d hd => outFits_bind hwf fun _ _ => ?_
    exact short ((pairStd_length (readDevid_ok hd) ..).trans_le (by decide))
  case pairext =>
    refine outFits_bind hwf fun d hd => outFits_bind hwf fun _ _ => ?_
    exact short (pairExt_length (readDevid_ok hd) ..).le
  case pair =>
    refine outFits_bind hwf fun d hd => outFits_bind hwf fun _ _ => ?_
    exact short (pairDispatch_length_le (readDevid_ok hd) ..)
  case fxauto =>
    exact outFits_bind hwf fun _ _ => short ((fxAuto_length ..).trans_le (by decide))
  case fxcolor => exact short (by simp [fxColor])

/-! The state invariant. -/

theorem inv_complete {s : State} {a : Response} (hcfg : s.cfg.wf = true) (hok : a.status = .ok)
    (hfit : s.cfg.outCap.admits a.out.length = true) : (complete a s).inv = true := by
  simp [State.inv, hcfg, hok, hfit]

theorem inv_raise {s : State} (hcfg : s.cfg.wf = true) (e : ErrorKind) :
    (raise e s).inv = true := by
  have hout : s.cfg.outCap.admits 0 = true := Config.outCap_of_le_eighteen hcfg (Nat.zero_le 18)
  simp [State.inv, hcfg, hout]

/-- A request leaves a complete response, whose status is OK and whose `out` fits, or an error. -/
theorem inv_exec {i : Instr} {s t : State} (hcfg : s.cfg.wf = true) (h : exec i s = .next t) :
    t.inv = true := by
  obtain ⟨r, ⟨-, hok⟩, hexec⟩ := exec_responds s.cfg i
  rcases respond_cases s r with ⟨a, hr, hnext⟩ | ⟨e, -, hnext⟩
  all_goals obtain rfl := Host.Outcome.next.inj (((hexec s rfl).trans hnext).symm.trans h)
  · exact inv_complete hcfg (hok a hr) (exec_out_fits hcfg h)
  · exact inv_raise hcfg e

theorem State.cfg_wf_of_inv {s : State} (h : s.inv = true) : s.cfg.wf = true := by
  simp only [State.inv, Bool.and_eq_true] at h
  obtain ⟨⟨⟨hcfg, -⟩, -⟩, -⟩ := h
  exact hcfg

theorem step_keeps_inv {s t : State} (hinv : s.inv = true) (h : step s = .next t) :
    t.inv = true := by
  have hcfg : s.consume.cfg.wf = true := State.cfg_wf_of_inv hinv
  cases hs : s.inputs with
  | nil =>
    obtain rfl := Host.Outcome.next.inj ((step_idle hs).symm.trans h)
    exact hinv
  | cons m rest =>
    cases m with
    | reset =>
      obtain rfl := Host.Outcome.next.inj ((step_reset hs).symm.trans h)
      exact inv_of_rsp_zero hcfg rfl
    | request q =>
      cases hd : decodeRequest q with
      | ok i => exact inv_exec hcfg ((step_assigned hs hd).symm.trans h)
      | error e =>
        obtain rfl := Host.Outcome.next.inj ((step_unassigned hs hd).symm.trans h)
        exact inv_raise hcfg .illegalOp

/-- Settles O33: an idle step keeps the state, reset clears RSP, and a request leaves a complete
response or an error whose `out` fits. -/
theorem everyStepKeepsTheStateInvariant : Obligations.EveryStepKeepsTheStateInvariant :=
  fun _ _ => step_keeps_inv

/-- Settles O30: the response looks at the parameters alone, so the second one is the first, written
over itself. -/
theorem operationsAreIdempotent : Obligations.OperationsAreIdempotent := by
  intro i s t h
  obtain ⟨r, hexec⟩ := responseDependsOnOperandsAlone s.cfg i
  obtain rfl := Host.Outcome.next.inj ((hexec s rfl).symm.trans h)
  exact hexec _ rfl

/-! The buffer primitives (R29). -/

theorem memRead_content {buf : Bytes} {i n : Nat} (h : i + n ≤ buf.length) :
    ∃ v, memRead buf i n = some v ∧ v.length = n ∧ ∀ k, k < n → v[k]? = buf[i + k]? := by
  refine ⟨_, memRead_some h, ?_, fun k hk => ?_⟩
  · rw [List.length_take, List.length_drop]
    omega
  · rw [List.getElem?_take_of_lt hk, List.getElem?_drop]

theorem memWrite_content {out v : Bytes} {i : Nat} (h : i ≤ out.length) :
    ∃ w, memWrite out i v = some w ∧ w.length = max out.length (i + v.length) ∧
      (∀ k, k < v.length → w[i + k]? = v[k]?) ∧
      (∀ j, j < i ∨ i + v.length ≤ j → w[j]? = out[j]?) := by
  have hpre : (out.take i).length = i := List.length_take_of_le h
  refine ⟨_, memWrite_some h, ?_, fun k hk => ?_, fun j hj => ?_⟩
  · simp only [List.length_append, List.length_drop, hpre]
    omega
  · rw [List.append_assoc, List.getElem?_append_right (by omega), hpre, Nat.add_sub_cancel_left,
      List.getElem?_append_left hk]
  · rcases hj with hj | hj
    · rw [List.append_assoc, List.getElem?_append_left (by omega), List.getElem?_take_of_lt hj]
    · have hlen : (out.take i ++ v).length = i + v.length := by rw [List.length_append, hpre]
      rw [List.getElem?_append_right (by omega), hlen, List.getElem?_drop, Nat.add_sub_cancel' hj]

/-- A whole-sequence assignment is a write at 0 on an empty `out`. -/
theorem memWrite_nil_zero (v : Bytes) : memWrite [] 0 v = some v := by
  simp [memWrite]

/-- Settles O55: the read is a slice, and the write is a prefix, the bytes and the rest. -/
theorem bufferPrimitives : Obligations.BufferPrimitives :=
  ⟨fun _ _ _ => memRead_content, fun _ _ _ => memWrite_content, memWrite_nil_zero⟩

end Machine
end Sys2Proof

/-! The encoding rules of 30_encoding.md: the codes (R59 to R61), header byte 0 (R56, R57) and the pairing address (R58). -/

namespace Sys2Proof

theorem Instr.opcode_toNat_lt (i : Instr) : i.opcode.toNat < 12 := by
  cases i <;> simp [Instr.opcode]

@[simp] theorem clearUnread_op (q : Request) : (clearUnread q).op = q.op := by
  fun_cases clearUnread q <;> rfl

/-- The operation is named by the code: nothing else of the request selects it (R60). -/
theorem opcode_of_decodeRequest {q : Request} {i : Instr} (h : decodeRequest q = .ok i) :
    i.opcode = q.op :=
  calc i.opcode = (encodeRequest i).op := (encodeRequest_op i).symm
    _ = (clearUnread q).op := by rw [clearUnread_of_decodeRequest h]
    _ = q.op := clearUnread_op q

/-- Only the decoder's last case refuses, and it is reached by none of the twelve codes above it. -/
theorem unassigned_of_decodeRequest {q : Request} {e : DecodeError}
    (h : decodeRequest q = .error e) : e = .unassigned q.op ∧ 12 ≤ q.op.toNat := by
  revert h
  fun_cases decodeRequest q
  case case13 =>
    rintro ⟨⟩
    refine ⟨rfl, ?_⟩
    simp only [imp_false] at *
    bv_omega
  all_goals nofun

theorem decodeRequest_assigned {q : Request} (h : q.op.toNat < 12) :
    ∃ i, decodeRequest q = .ok i := by
  cases hd : decodeRequest q with
  | ok i => exact ⟨i, rfl⟩
  | error e =>
    obtain ⟨-, hcode⟩ := unassigned_of_decodeRequest hd
    omega

theorem decodeRequest_unassigned {q : Request} (h : 12 ≤ q.op.toNat) :
    decodeRequest q = .error (.unassigned q.op) := by
  cases hd : decodeRequest q with
  | ok i =>
    have hcode := i.opcode_toNat_lt
    rw [opcode_of_decodeRequest hd] at hcode
    omega
  | error e =>
    obtain ⟨rfl, -⟩ := unassigned_of_decodeRequest hd
    rfl

/-- Settles O7: a refusal means a code of 12 or more, and an operation's code is the request's, which
is below 12. -/
theorem decodingIsTotalOnCodes : Obligations.DecodingIsTotalOnCodes := by
  refine fun q => ⟨fun h => ?_, decodeRequest_unassigned⟩
  obtain ⟨i, hd⟩ := decodeRequest_assigned h
  exact ⟨i, hd, opcode_of_decodeRequest hd⟩

/-- Settles O8: the six words, run through the decoder. -/
theorem tableWordsDecodeToTheirRows : Obligations.TableWordsDecodeToTheirRows :=
  ⟨rfl, rfl, rfl, rfl, rfl, rfl⟩

namespace Machine

/-- Settles O5: the decoder refuses the code, and a refused request raises IllegalOp where its move has
been taken. -/
theorem unassignedCodeRaisesIllegalOp : Obligations.UnassignedCodeRaisesIllegalOp := by
  intro s q rest hs hcode
  rw [step_unassigned hs (decodeRequest_unassigned hcode), State.consume_eq hs]
  rfl

/-! Header byte 0: both directions are arithmetic on the number its fields make (R56, R57). -/

theorem unpackHeader_of_packB0 {retry ctype fwd : Byte} {h : Header} (hr : retry.toNat ≤ 15)
    (hc : ctype.toNat ≤ 7) (hf : fwd.toNat ≤ 1) (hb : h.b0 = packB0 retry ctype fwd) :
    (unpackHeader h).retry.toNat = retry.toNat ∧ (unpackHeader h).ctype.toNat = ctype.toNat ∧
      (unpackHeader h).fwd.toNat = fwd.toNat := by
  rw [unpackHeader_retry_toNat, unpackHeader_ctype_toNat, unpackHeader_fwd_toNat, hb,
    packB0_toNat]
  omega

theorem packB0_unpackHeader (h : Header) :
    packB0 ((unpackHeader h).retry.setWidth 8) ((unpackHeader h).ctype.setWidth 8)
      ((unpackHeader h).fwd.setWidth 8) = h.b0 := by
  have widen {n : Nat} (hn : n ≤ 8) (x : BitVec n) : (x.setWidth 8).toNat = x.toNat :=
    BitVec.toNat_setWidth_of_le hn
  apply BitVec.eq_of_toNat_eq
  rw [packB0_toNat, widen (by decide), widen (by decide), widen (by decide),
    unpackHeader_retry_toNat, unpackHeader_ctype_toNat, unpackHeader_fwd_toNat]
  omega

/-- Settles O35: the fields are the digits of byte 0 in the mixed base 16, 8, 2. -/
theorem byteZeroPacksAndUnpacks : Obligations.ByteZeroPacksAndUnpacks :=
  ⟨fun _ _ _ _ => unpackHeader_of_packB0, packB0_unpackHeader⟩

/-- The choice of record and its address bytes, in numbers (R58; 43_pairing.md R100). -/
theorem pairDispatch_eq (c : Byte) (d : Bytes) (addr : BitVec 16) (k : MeshKey) :
    pairDispatch c d addr k =
      if 256 < addr.toNat then
        pairExt d (BitVec.ofNat 8 addr.toNat) (BitVec.ofNat 8 (addr.toNat / 256)) c k
      else pairStd d (BitVec.ofNat 8 addr.toNat) c k := by
  simp only [pairDispatch, pairExtThreshold_lt, addressLow_eq, addressHigh_eq]

/-- Settles O50: the three operations read the same operands in the same order, so only the record
they build can differ, and PAIR's is the one of the branch taken. -/
theorem pairIsStandardOrExtended : Obligations.PairIsStandardOrExtended := by
  intro devid addr group key s
  simp only [exec, execPair, pairDispatch_eq]
  split <;> rfl

end Machine
end Sys2Proof

/-! The checksum and header packer of 40_header_packer.md: PACK (R71), the masked fields (R68) and what the checksum sees (R73). -/

namespace Sys2Proof.Machine

/-! PACK in numbers (R56, R67, R69, R71). -/

/-- The plaintext header in numbers: byte 0 by its fields (R56), the checksum as the sum of the
other bytes mod 256 (R67, R69). -/
theorem plainHeader_eq (retry ctype fwd seq meshb : Byte) (p : Bytes) :
    plainHeader retry ctype fwd seq meshb p =
      let b0 : Nat := retry.toNat % 16 + 16 * (ctype.toNat % 8) + 128 * (fwd.toNat % 2)
      let csum : Nat := (b0 + seq.toNat + meshb.toNat + (p.map BitVec.toNat).sum) % 256
      ⟨BitVec.ofNat 8 b0, seq, meshb, BitVec.ofNat 8 csum⟩ := by
  ext : 1
  case seq | meshb => rfl
  all_goals apply BitVec.eq_of_toNat_eq
  case b0 =>
    rw [plainHeader, BitVec.toNat_ofNat, packB0_toNat]
    omega
  case csum =>
    rw [plainHeader, BitVec.toNat_ofNat, csum8_toNat, packB0_toNat, sumBytes_eq_sum, Nat.mod_mod]

/-- Settles O11: the meaning's own two tests are the rule's, once `in` is within its capacity, and the
header it writes is the rule's in numbers. -/
theorem packAnswersAsItsRule : Obligations.PackAnswersAsItsRule := by
  intro retry ctype fwd seq meshb inp s hwf
  have hcap : s.cfg.inCap.admits inp.length = true := hwf
  rw [exec, execPack_eq, packHeader, plainHeader_eq]
  cases hpay : s.cfg.payloadMax.admits inp.length with
  | false => simp [respond_error, raise, ErrorKind.status]
  | true =>
    simp only [hcap, and_self, if_true, Bool.true_eq_false, if_false]
    split <;> rfl

/-! RANGE_MODE = mask (R68): the packer drops the high bits itself, and no test looks at them. -/

/-- Masking a field twice is masking it once. -/
theorem packB0_masked (retry ctype fwd : Byte) :
    packB0 (retry &&& 0x0F) (ctype &&& 0x07) (fwd &&& 0x01) = packB0 retry ctype fwd := by
  simp [packB0, BitVec.and_assoc]

theorem plainHeader_masked (retry ctype fwd seq meshb : Byte) (p : Bytes) :
    plainHeader (retry &&& 0x0F) (ctype &&& 0x07) (fwd &&& 0x01) seq meshb p =
      plainHeader retry ctype fwd seq meshb p := by
  simp only [plainHeader, packB0_masked]

/-- A meaning that tests lengths alone answers OK or LengthError. -/
theorem respond_lengthGuard_ne_rangeError (s : State) (v : Bytes) {fits : Prop} [Decidable fits] :
    ∃ t, respond s (if fits then .ok (outResponse v) else .error .lengthError) = .next t ∧
      t.rsp.status ≠ .rangeError := by
  refine ⟨_, respond_eq s _, ?_⟩
  split <;> nofun

section mask
variable {s : State} (hm : s.cfg.rangeMode = .mask) (retry ctype fwd seq meshb : Byte)
  (inp key : Bytes)
include hm

theorem checkHeaderFields_mask : checkHeaderFields s.cfg retry ctype fwd = .ok () := by
  rw [checkHeaderFields_eq, if_neg (by simp [hm])]

theorem execPack_masked :
    execPack retry ctype fwd seq meshb inp s =
      execPack (retry &&& 0x0F) (ctype &&& 0x07) (fwd &&& 0x01) seq meshb inp s := by
  simp only [execPack, checkHeaderFields_mask hm, packHeader, plainHeader_masked]

theorem execEncode_masked :
    execEncode ctype retry seq meshb fwd inp key s =
      execEncode (ctype &&& 0x07) (retry &&& 0x0F) seq meshb (fwd &&& 0x01) inp key s := by
  simp only [execEncode, checkHeaderFields_mask hm, encodeFrame, plainHeader_masked]

theorem execPack_mask_ne_rangeError :
    ∃ t, execPack retry ctype fwd seq meshb inp s = .next t ∧ t.rsp.status ≠ .rangeError := by
  simp only [execPack_eq, hm, reduceCtorEq, false_and, if_false]
  exact respond_lengthGuard_ne_rangeError s _

theorem execEncode_mask_ne_rangeError :
    ∃ t, execEncode ctype retry seq meshb fwd inp key s = .next t ∧
      t.rsp.status ≠ .rangeError := by
  by_cases hk : key.length = 4
  · obtain ⟨k, rfl⟩ := exists_key_of_length hk
    simp only [execEncode_eq, hm, reduceCtorEq, false_and, if_false]
    exact respond_lengthGuard_ne_rangeError s _
  · exact ⟨_, execEncode_key s hk, nofun⟩

end mask

/-- Settles O36: packing masks the fields again, and with the range test gone a length is all that
either operation can refuse. -/
theorem maskModePacksMaskedFields : Obligations.MaskModePacksMaskedFields := by
  intro retry ctype fwd seq meshb inp key s hm
  obtain ⟨t, hpack, ht⟩ := execPack_mask_ne_rangeError hm retry ctype fwd seq meshb inp
  obtain ⟨u, hencode, hu⟩ := execEncode_mask_ne_rangeError hm retry ctype fwd seq meshb inp key
  exact ⟨execPack_masked hm .., execEncode_masked hm .., t, u, hpack, ht, hencode, hu⟩

/-! What the checksum sees (R73): it is the sum of its bytes in the ring of bytes. -/

theorem csum8_eq_sumBytes (a b c : Byte) (p : Bytes) :
    csum8 a b c p = BitVec.ofNat 8 (sumBytes (a :: b :: c :: p)) := by
  simp only [csum8, sumBytes, Nat.add_assoc]

/-- Overwriting a byte moves the sum mod 256 by the difference. -/
theorem ofNat_sumBytes_set {l : Bytes} {i : Nat} {y : Byte} (x : Byte) (h : l[i]? = some y) :
    BitVec.ofNat 8 (sumBytes (l.set i x)) + y = BitVec.ofNat 8 (sumBytes l) + x := by
  simpa [BitVec.ofNat_add] using congrArg (BitVec.ofNat 8) (sumBytes_set x h)

/-- R73(e), first half: the difference of two bytes is 0 mod 256 only if they are equal. -/
theorem ofNat_sumBytes_set_ne {l : Bytes} {i : Nat} {x : Byte} (hi : i < l.length)
    (hx : l[i]? ≠ some x) :
    BitVec.ofNat 8 (sumBytes (l.set i x)) ≠ BitVec.ofNat 8 (sumBytes l) := by
  intro heq
  have hget : l[i]? = some l[i] := List.getElem?_eq_getElem hi
  have hset := ofNat_sumBytes_set x hget
  rw [heq, add_right_inj] at hset
  exact hx (hset ▸ hget)

/-- R73(e), second half: what one byte gains the other loses. -/
theorem ofNat_sumBytes_set_set {l : Bytes} {i j : Nat} {x y : Byte} (d : Byte) (hij : i ≠ j)
    (hx : l[i]? = some x) (hy : l[j]? = some y) :
    BitVec.ofNat 8 (sumBytes ((l.set i (x + d)).set j (y - d))) = BitVec.ofNat 8 (sumBytes l) := by
  have hgain := ofNat_sumBytes_set (x + d) hx
  have hy' : (l.set i (x + d))[j]? = some y := by rwa [List.getElem?_set_ne hij]
  have hlose := ofNat_sumBytes_set (y - d) hy'
  bv_omega

/-- Settles O37: the checksum is the sum of the bytes mod 256, header and payload alike, so both
halves are about overwriting a byte of one sequence. -/
theorem checksumSeesEverySingleByteChange : Obligations.ChecksumSeesEverySingleByteChange := by
  refine ⟨fun a b c a' b' c' x p p' i hi hset hx => ?_,
    fun a b c a' b' c' x y d p p' i j hij hx hy hset => ?_⟩
  all_goals rw [csum8_eq_sumBytes, csum8_eq_sumBytes, hset]
  · exact ofNat_sumBytes_set_ne hi hx
  · exact ofNat_sumBytes_set_set d hij hx hy

end Sys2Proof.Machine

/-! The obfuscator of 41_obfuscator.md: the header transform's two forms (R75 to R78), the payload transform and its keystream (R77, R79, R80, R84), and the three operations (R81 to R83). -/

namespace Sys2Proof.Machine

/-! The header transform: reading a word's bytes commutes with XOR, so its two forms agree. -/

theorem bytesLe32_hxor32 (w : Word32) : bytesLe32 (hxor32 w) = hxorBytes (bytesLe32 w) := by
  ext : 1 <;> exact BitVec.extractLsb'_xor

/-- Settles O38: the byte form is the integer form seen through the little-endian view, whose two
directions undo each other. -/
theorem headerTransformFormsAgree : Obligations.HeaderTransformFormsAgree := by
  refine ⟨fun h => ?_, fun w => ?_⟩
  · rw [bytesLe32_hxor32, bytesLe32_le32]
  · rw [← bytesLe32_hxor32, le32_bytesLe32]

/-! Each transform undoes itself (R79): XOR with the same value twice is no change. -/

theorem hxor32_involutive : Function.Involutive hxor32 := xor_left_involutive hdrXor

theorem hxorBytes_involutive : Function.Involutive hxorBytes := by
  intro h
  ext : 1 <;> exact xor_cancel_right _ _

theorem pxorFrom_involutive (k : MeshKey) (j : Nat) : Function.Involutive (pxorFrom k j) := by
  intro p
  induction p generalizing j with
  | nil => rfl
  | cons b p ih => rw [pxorFrom, pxorFrom, xor_cancel_right, ih]

theorem pxorBytes_involutive (k : MeshKey) : Function.Involutive (pxorBytes · k) :=
  pxorFrom_involutive k 0

/-- Settles O39: a transform that undoes itself is a bijection, and the only payload that becomes `q`
is what `q` becomes. -/
theorem transformsAreInvolutions : Obligations.TransformsAreInvolutions := by
  refine ⟨hxor32_involutive, hxorBytes_involutive, fun p k => pxorBytes_involutive k p,
    fun _ => rfl, pxorBytes_length, hxor32_involutive.bijective, hxorBytes_involutive.bijective,
    fun q k => ⟨pxorBytes q k, ⟨pxorBytes_length q k, pxorBytes_involutive k q⟩, ?_⟩⟩
  rintro p ⟨-, hp⟩
  exact (pxorBytes_involutive k).eq_iff.mp hp

/-! The keystream repeats every 4 bytes and depends on the position alone (R80, R84). -/

/-- The key cancels between two runs that start at one index; bytes past the shorter are dropped. -/
theorem zipWith_xor_pxorFrom (k : MeshKey) (j : Nat) (p q : Bytes) :
    List.zipWith (fun a b => a ^^^ b) (pxorFrom k j p) (pxorFrom k j q) =
      List.zipWith (fun a b => a ^^^ b) p q := by
  induction p generalizing j q with
  | nil => rfl
  | cons x p ih =>
    cases q with
    | nil => rfl
    | cons y q =>
      have hcancel : x ^^^ k.byte j ^^^ (y ^^^ k.byte j) = x ^^^ y := by
        rw [BitVec.xor_comm y, ← BitVec.xor_assoc, xor_cancel_right]
      rw [pxorFrom, pxorFrom, List.zipWith_cons_cons, List.zipWith_cons_cons, ih, hcancel]

/-- Known plaintext gives the key byte its position meets. -/
theorem pxorBytes_getD_xor {p : Bytes} {i : Nat} (k : MeshKey) (h : i < p.length) :
    (pxorBytes p k).getD i 0 ^^^ p.getD i 0 = k.bytes.getD (i % 4) 0 := by
  have hp : p[i]? = some p[i] := List.getElem?_eq_getElem h
  rw [List.getD_eq_getElem?_getD, List.getD_eq_getElem?_getD, pxorBytes, pxorFrom_getElem?, hp,
    ← MeshKey.byte_eq_getD, Nat.zero_add]
  exact xor_xor_cancel_comm ..

/-- A run that starts a whole number of keys in is transformed as from the start. -/
theorem pxorFrom_of_mod_eq_zero {j : Nat} (k : MeshKey) (p : Bytes) (h : j % 4 = 0) :
    pxorFrom k j p = pxorBytes p k :=
  pxorFrom_congr k k j 0 p fun i => k.byte_congr (by omega)

theorem pxorBytes_append (a b : Bytes) (k : MeshKey) :
    pxorBytes (a ++ b) k = pxorBytes a k ++ pxorFrom k a.length b := by
  rw [pxorBytes, pxorFrom_append, Nat.zero_add, pxorBytes]

theorem pxorBytes_append_of_mod_eq_zero {a : Bytes} (b : Bytes) (k : MeshKey)
    (h : a.length % 4 = 0) : pxorBytes (a ++ b) k = pxorBytes a k ++ pxorBytes b k := by
  rw [pxorBytes_append, pxorFrom_of_mod_eq_zero k b h]

/-- The key that starts at key byte `n`: the rotation of R80. -/
def MeshKey.rotate (k : MeshKey) (n : Nat) : MeshKey :=
  ⟨k.byte n, k.byte (n + 1), k.byte (n + 2), k.byte (n + 3)⟩

theorem MeshKey.rotate_byte (k : MeshKey) (n i : Nat) : (k.rotate n).byte i = k.byte (n + i) := by
  have hlt : i % 4 < 4 := Nat.mod_lt _ (by decide)
  rw [← (k.rotate n).byte_mod, k.byte_congr (show (n + i) % 4 = (n + i % 4) % 4 by omega)]
  generalize i % 4 = r at hlt
  match r, hlt with
  | 0, _ | 1, _ | 2, _ | 3, _ => rfl

/-- Starting at payload index `n` is starting at 0 with the key rotated by `n`. -/
theorem pxorFrom_eq_rotate (k : MeshKey) (n : Nat) (p : Bytes) :
    pxorFrom k n p = pxorBytes p (k.rotate n) :=
  pxorFrom_congr k (k.rotate n) n 0 p fun i => by rw [k.rotate_byte, Nat.zero_add]

/-- Settles O40: the constants are computed; the rest is what byte `i` meets, `k[i mod 4]`. -/
theorem keystreamIsShortAndRepeating : Obligations.KeystreamIsShortAndRepeating := by
  refine ⟨by decide, by decide, fun p q k _ => zipWith_xor_pxorFrom k 0 p q,
    fun _ k _ => pxorBytes_getD_xor k, fun _ b k => pxorBytes_append_of_mod_eq_zero b k,
    fun a b k => ?_⟩
  rw [pxorBytes_append, pxorFrom_eq_rotate, MeshKey.rotate]

/-- Settles O41: the header is one whole turn of the key. -/
theorem keystreamPhaseSkipsTheHeader : Obligations.KeystreamPhaseSkipsTheHeader := by
  refine fun h p k hlen => ⟨pxorFrom_of_mod_eq_zero k p rfl, ?_⟩
  rw [pxorBytes_append_of_mod_eq_zero p k (by rw [hlen])]
  exact List.drop_left' ((pxorBytes_length h k).trans hlen)

/-! The three operations (R81 to R83). -/

/-- Settles O12: every word is legal, so the answer is the transform's. -/
theorem hxorAnswersAsItsRule : Obligations.HxorAnswersAsItsRule :=
  fun _ _ => rfl

theorem exists_header_of_length_eq {inp : Bytes} (h : inp.length = 4) :
    ∃ d : Header, inp = d.bytes := by
  obtain ⟨d, p, rfl⟩ := exists_header_of_length h.ge
  obtain rfl : p = [] := List.eq_nil_of_length_eq_zero (by simpa using h)
  exact ⟨d, List.append_nil _⟩

theorem hxorBytes_bytes (h : Header) :
    (hxorBytes h).bytes = List.zipWith (fun a b => a ^^^ b) h.bytes [0x5E, 0x36, 0x7B, 0xC4] :=
  rfl

/-- Settles O13: the length is the only test left within the capacities, and four bytes are a
header. -/
theorem hxorbAnswersAsItsRule : Obligations.HxorbAnswersAsItsRule := by
  intro inp s hwf
  rw [exec]
  by_cases hlen : inp.length = 4
  · obtain ⟨h, rfl⟩ := exists_header_of_length_eq hlen
    have hcap : s.cfg.inCap.admits 4 = true := hwf
    rw [if_neg (not_not.mpr hlen), execHxorb_eq, if_pos hcap, hxorBytes_bytes]
    rfl
  · rw [if_pos hlen, execHxorb_length s hlen]
    rfl

/-- Settles O14: the key's length is the only test left within the capacities. -/
theorem pxorAnswersAsItsRule : Obligations.PxorAnswersAsItsRule := by
  intro inp key s hwf
  obtain ⟨hin, hkey⟩ := Bool.and_eq_true_iff.mp hwf
  rw [exec]
  by_cases hlen : key.length = 4
  · obtain ⟨k, rfl⟩ := exists_key_of_length hlen
    rw [if_neg (not_not.mpr hlen), execPxor_eq, if_pos ⟨hkey, hin⟩, pxorBytes_eq_mapIdx]
    rfl
  · rw [if_pos hlen, execPxor_key s hlen]
    rfl

end Sys2Proof.Machine

/-! The frame codec of 42_frame_codec.md: ENCODE (R85, R86), ENCODEH (R87), DECODE (R89 to R92) and the laws between them (R93 to R97). -/

namespace Sys2Proof.Machine

/-! What the operations answer where the parameters fit together and the request is within the limits:
no test is left to refuse it. -/

section accepted
variable {s : State} {p : Bytes} (hwf : s.cfg.wf = true)
  (hp : s.cfg.payloadMax.admits p.length = true) (h : Header) (k : MeshKey)
include hwf hp

theorem execHxorb_accepted :
    execHxorb h.bytes s = .next (complete (outResponse (hxorBytes h).bytes) s) := by
  have hin : s.cfg.inCap.admits 4 = true :=
    Limit.admits_mono (Nat.le_add_left 4 _) (Config.inCap_frame hwf hp)
  rw [execHxorb_eq, if_pos hin, respond_ok]

theorem execPxor_accepted :
    execPxor p k.bytes s = .next (complete (outResponse (pxorBytes p k)) s) := by
  rw [execPxor_eq, if_pos ⟨Config.keyCap_four hwf, Config.inCap_payload hwf hp⟩, respond_ok]

theorem execEncodeh_accepted :
    execEncodeh (h.bytes ++ p) k.bytes s =
      .next (complete (outResponse (h.bytes ++ pxorBytes p k)) s) := by
  rw [execEncodeh_eq, if_pos ⟨Config.keyCap_four hwf, Config.inCap_frame hwf hp, hp⟩, respond_ok]

theorem execDecode_accepted :
    execDecode (h.bytes ++ p) k.bytes s = .next (complete (decodeResponse h p k) s) := by
  rw [execDecode_eq, if_pos ⟨Config.keyCap_four hwf, Config.inCap_frame hwf hp, hp⟩, respond_ok]

variable {retry ctype fwd : Byte} (seq meshb : Byte)
  (hrange : ¬ (s.cfg.rangeMode = .fault ∧ (15 < retry.toNat ∨ 7 < ctype.toNat ∨ 1 < fwd.toNat)))
include hrange

theorem execPack_accepted :
    execPack retry ctype fwd seq meshb p s =
      .next (complete (outResponse (packHeader retry ctype fwd seq meshb p)) s) := by
  rw [execPack_eq, if_pos ⟨Config.inCap_payload hwf hp, hp⟩, if_neg hrange, respond_ok]

theorem execEncode_accepted :
    execEncode ctype retry seq meshb fwd p k.bytes s =
      .next (complete (outResponse (encodeFrame ctype retry seq meshb fwd p k)) s) := by
  rw [execEncode_eq, if_pos ⟨Config.keyCap_four hwf, Config.inCap_payload hwf hp, hp⟩,
    if_neg hrange, respond_ok]

end accepted

/-! The round trip (R93, R94, R96): DECODE applies both transforms, and each undoes itself. -/

theorem pxorBytes_pxorBytes (p : Bytes) (k : MeshKey) : pxorBytes (pxorBytes p k) k = p :=
  pxorBytes_involutive k p

/-- Decoding an obfuscated frame reports what was obfuscated: a plaintext header `h` and payload
`p`. -/
theorem decodeResponse_obfuscated (h : Header) (p : Bytes) (k : MeshKey) :
    decodeResponse (hxorBytes h) (pxorBytes p k) k =
      { Response.zero with
        out := p
        dCtype := (unpackHeader h).ctype
        dRetry := (unpackHeader h).retry
        dFwd := (unpackHeader h).fwd
        dSeq := h.seq
        dMeshb := h.meshb
        dCsum := h.csum
        csok := checksumMatches h p } := by
  rw [decodeResponse, hxorBytes_involutive h, pxorBytes_pxorBytes]
  rfl

/-- Settles O42: both requests are within the limits, DECODE sees the header and payload that ENCODE
obfuscated, and fields in range survive byte 0. -/
theorem frameRoundTrip : Obligations.FrameRoundTrip := by
  intro ctype retry seq meshb fwd p key s hwf hctype hretry hfwd hkey hp
  obtain ⟨k, rfl⟩ := exists_key_of_length hkey
  have hencode := execEncode_accepted (retry := retry) (ctype := ctype) (fwd := fwd) hwf hp k seq
    meshb (by omega)
  have hdecode := execDecode_accepted
    (s := complete (outResponse (encodeFrame ctype retry seq meshb fwd p k)) s)
    (p := pxorBytes p k) hwf (by rwa [pxorBytes_length])
    (hxorBytes (plainHeader retry ctype fwd seq meshb p)) k
  rw [decodeResponse_obfuscated] at hdecode
  obtain ⟨hr, hc, hf⟩ := unpackHeader_of_packB0 (h := plainHeader retry ctype fwd seq meshb p)
    hretry hctype hfwd rfl
  exact ⟨_, _, hencode, hdecode, rfl, hc, hr, rfl, rfl, hf, rfl, rfl⟩

/-- Settles O43: DECODE splits the frame and the key as ENCODE joined them, and the header ENCODE
obfuscated carries its own checksum. -/
theorem encodedFramesDecodeWithCsok : Obligations.EncodedFramesDecodeWithCsok := by
  intro ctype retry seq meshb fwd p key s t u hencode ht hdecode hu
  obtain ⟨k, rfl, -, -, -, -, rfl⟩ := execEncode_ok hencode ht
  obtain ⟨k', d, q, hkey, hframe, -, -, -, rfl⟩ := execDecode_ok hdecode hu
  obtain rfl := MeshKey.bytes_inj hkey
  obtain ⟨rfl, rfl⟩ := Header.bytes_append_inj hframe
  rw [complete_rsp, decodeResponse_obfuscated]
  exact checksumMatches_plainHeader retry ctype fwd seq meshb p

/-- A header is its unpacked fields, packed, with the checksum it carries. -/
theorem pack_unpackHeader (h : Header) :
    (⟨packB0 ((unpackHeader h).retry.setWidth 8) ((unpackHeader h).ctype.setWidth 8)
      ((unpackHeader h).fwd.setWidth 8), (unpackHeader h).seq, (unpackHeader h).meshb,
      (unpackHeader h).csum⟩ : Header) = h := by
  rw [packB0_unpackHeader]
  rfl

/-- Settles O46: packing the fields of byte 0 gives it back, and both transforms undo themselves. -/
theorem decodedPartsRebuildTheFrame : Obligations.DecodedPartsRebuildTheFrame := by
  intro inp k s t hdecode ht
  obtain ⟨k', d, q, hkey, rfl, -, -, -, rfl⟩ := execDecode_ok hdecode ht
  obtain rfl := MeshKey.bytes_inj hkey
  simp only [complete_rsp, decodeResponse, pack_unpackHeader, hxorBytes_involutive d,
    pxorBytes_pxorBytes]

/-! The composite operations by the leaf operations (R87, R97). -/

/-- Settles O47: what ENCODE accepts the three leaf operations accept, one after the other. -/
theorem encodeIsPackThenTransforms : Obligations.EncodeIsPackThenTransforms := by
  intro ctype retry seq meshb fwd p key s t hwf hencode ht
  obtain ⟨k, rfl, -, -, hp, hrange, rfl⟩ := execEncode_ok hencode ht
  exact ⟨_, _, _, execPack_accepted hwf hp seq meshb hrange, rfl,
    execHxorb_accepted (s := complete _ s) hwf hp (plainHeader retry ctype fwd seq meshb p), rfl,
    execPxor_accepted (s := complete _ (complete _ s)) hwf hp k, rfl, rfl⟩

/-- Settles O48: the header DECODE unpacks is HXORB's output, and its payload PXOR's. -/
theorem decodeIsTransformsThenUnpack : Obligations.DecodeIsTransformsThenUnpack := by
  intro inp key s t hwf hdecode ht
  obtain ⟨k, d, q, rfl, rfl, -, -, hq, rfl⟩ := execDecode_ok hdecode ht
  exact ⟨hxorBytes d, _, _, execHxorb_accepted hwf hq d, rfl,
    execPxor_accepted (s := complete _ s) hwf hq k, rfl, rfl, rfl, rfl, rfl, rfl, rfl, rfl⟩

/-- Settles O49: ENCODEH passes the obfuscated header through and obfuscates the payload as ENCODE
does. -/
theorem encodehMatchesEncode : Obligations.EncodehMatchesEncode := by
  intro ctype retry seq meshb fwd p key s t hwf hencode ht
  obtain ⟨k, rfl, -, -, hp, -, rfl⟩ := execEncode_ok hencode ht
  exact execEncodeh_accepted hwf hp _ k

/-! What DECODE's answer does not depend on (R90, R91, R95). Two requests that agree on every length
are refused together or answered together. -/

/-- Settles O44: the two frames differ in byte 3 alone, which reaches nothing but `d_csum` and
`csok`. -/
theorem decodeNeverVerifiesTheChecksum : Obligations.DecodeNeverVerifiesTheChecksum := by
  intro inp key x s t u ht hu
  by_cases hlen : 4 ≤ inp.length
  · by_cases hkey : key.length = 4
    · obtain ⟨k, rfl⟩ := exists_key_of_length hkey
      obtain ⟨d, p, rfl⟩ := exists_header_of_length hlen
      have hset : (d.bytes ++ p).set 3 x = { d with csum := x }.bytes ++ p := rfl
      rw [exec, execDecode_eq] at ht
      rw [exec, hset, execDecode_eq] at hu
      obtain rfl := respond_next ht
      obtain rfl := respond_next hu
      split <;> rfl
    · rw [exec, execDecode_key s hkey] at ht hu
      cases ht
      cases hu
      rfl
  · rw [List.set_eq_of_length_le (by omega), ht] at hu
    cases hu
    rfl

/-- Settles O45: the key meets the payload alone, and its transform keeps the length. -/
theorem wrongKeyLeavesHeaderFields : Obligations.WrongKeyLeavesHeaderFields := by
  intro inp key key' s t u hkey hkey' ht hu
  obtain ⟨k, rfl⟩ := exists_key_of_length hkey
  obtain ⟨k', rfl⟩ := exists_key_of_length hkey'
  rw [exec] at ht hu
  by_cases hlen : 4 ≤ inp.length
  · obtain ⟨d, p, rfl⟩ := exists_header_of_length hlen
    rw [execDecode_eq] at ht hu
    obtain rfl := respond_next ht
    obtain rfl := respond_next hu
    split
    · exact ⟨rfl, (pxorBytes_length p k').trans (pxorBytes_length p k).symm⟩
    · exact ⟨rfl, rfl⟩
  · rw [execDecode_short s _ (by omega)] at ht hu
    cases ht
    cases hu
    exact ⟨rfl, rfl⟩

/-! The three operations in numbers (R86, R87, R90). -/

/-- Settles O15: within the capacities the meaning's tests are the rule's, and the frame is the
plaintext header in numbers and the payload, transformed. -/
theorem encodeAnswersAsItsRule : Obligations.EncodeAnswersAsItsRule := by
  intro ctype retry seq meshb fwd inp key s hwf
  obtain ⟨hin, hcap⟩ := Bool.and_eq_true_iff.mp hwf
  rw [exec]
  by_cases hkey : key.length = 4
  · obtain ⟨k, rfl⟩ := exists_key_of_length hkey
    have hcap : s.cfg.keyCap.admits 4 = true := hcap
    rw [execEncode_eq, encodeFrame, plainHeader_eq, pxorBytes_eq_mapIdx]
    cases hpay : s.cfg.payloadMax.admits inp.length with
    | false => simp [respond_error, raise, ErrorKind.status]
    | true =>
      simp only [hcap, hin, hkey, and_self, if_true, ne_eq, not_true_eq_false, Bool.true_eq_false,
        or_self, if_false]
      split <;> rfl
  · rw [if_pos (.inl hkey), execEncode_key s hkey]
    rfl

/-- The tests on a key and a frame that are within their capacities, as R120 writes them. -/
theorem respond_frame_eq {s : State} {h : Header} {p : Bytes} {k : MeshKey}
    (hin : s.cfg.inCap.admits (h.bytes ++ p).length = true)
    (hkey : s.cfg.keyCap.admits k.bytes.length = true) (r : Response) :
    respond s (
      if s.cfg.keyCap.admits 4 = true ∧ s.cfg.inCap.admits (p.length + 4) = true ∧
          s.cfg.payloadMax.admits p.length = true then .ok r
      else .error .lengthError) =
    .next (
      if k.bytes.length ≠ 4 ∨ (h.bytes ++ p).length < 4 ∨
          (s.cfg.payloadMax.plus 4).admits (h.bytes ++ p).length = false then
        raise .lengthError s
      else complete r s) := by
  have hlen : (h.bytes ++ p).length = p.length + 4 := by
    rw [List.length_append, Header.bytes_length, Nat.add_comm]
  rw [hlen] at hin
  rw [MeshKey.bytes_length] at hkey
  rw [hlen, Limit.admits_plus, MeshKey.bytes_length]
  cases s.cfg.payloadMax.admits p.length <;> simp [hin, hkey, respond]

/-- Settles O16: a key and a frame of acceptable length are split, and the rest of the frame meets the
key. -/
theorem encodehAnswersAsItsRule : Obligations.EncodehAnswersAsItsRule := by
  intro inp key s hwf
  obtain ⟨hin, hcap⟩ := Bool.and_eq_true_iff.mp hwf
  rw [exec]
  by_cases hkey : key.length = 4
  · obtain ⟨k, rfl⟩ := exists_key_of_length hkey
    by_cases hlen : 4 ≤ inp.length
    · obtain ⟨h, p, rfl⟩ := exists_header_of_length hlen
      rw [execEncodeh_eq, respond_frame_eq hin hcap, pxorBytes_eq_mapIdx]
      rfl
    · have hlen : inp.length < 4 := Nat.lt_of_not_le hlen
      rw [if_pos (.inr (.inl hlen)), execEncodeh_short s k hlen]
      rfl
  · rw [if_pos (.inl hkey), execEncodeh_key s hkey]
    rfl

/-- The fields of byte 0 as its digits (R57). -/
theorem unpackHeader_retry (h : Header) :
    (unpackHeader h).retry = BitVec.ofNat 4 (h.b0.toNat % 16) := by
  apply BitVec.eq_of_toNat_eq
  rw [unpackHeader_retry_toNat, BitVec.toNat_ofNat]
  omega

theorem unpackHeader_ctype (h : Header) :
    (unpackHeader h).ctype = BitVec.ofNat 3 (h.b0.toNat / 16 % 8) := by
  apply BitVec.eq_of_toNat_eq
  rw [unpackHeader_ctype_toNat, BitVec.toNat_ofNat]
  omega

theorem unpackHeader_fwd (h : Header) :
    (unpackHeader h).fwd = BitVec.ofNat 1 (h.b0.toNat / 128) := by
  apply BitVec.eq_of_toNat_eq
  rw [unpackHeader_fwd_toNat, BitVec.toNat_ofNat]
  omega

/-- `csok` in numbers (R67, R92). -/
theorem checksumMatches_eq (h : Header) (p : Bytes) :
    checksumMatches h p = decide (h.csum.toNat =
      (h.b0.toNat + h.seq.toNat + h.meshb.toNat + (p.map BitVec.toNat).sum) % 256) := by
  rw [checksumMatches, ← sumBytes_eq_sum, ← csum8_toNat, Bool.beq_eq_decide_eq]
  exact decide_eq_decide.mpr BitVec.toNat_inj.symm

/-- Settles O17: a key and a frame of acceptable length are split, and the response is the plaintext
header's fields in numbers, the payload and `csok`. -/
theorem decodeAnswersAsItsRule : Obligations.DecodeAnswersAsItsRule := by
  intro inp key s hwf
  obtain ⟨hin, hcap⟩ := Bool.and_eq_true_iff.mp hwf
  rw [exec]
  by_cases hkey : key.length = 4
  · obtain ⟨k, rfl⟩ := exists_key_of_length hkey
    by_cases hlen : 4 ≤ inp.length
    · obtain ⟨h, q, rfl⟩ := exists_header_of_length hlen
      rw [execDecode_eq, respond_frame_eq hin hcap, decodeResponse, unpackHeader_retry,
        unpackHeader_ctype, unpackHeader_fwd, checksumMatches_eq, pxorBytes_eq_mapIdx]
      rfl
    · have hlen : inp.length < 4 := Nat.lt_of_not_le hlen
      rw [if_pos (.inr (.inl hlen)), execDecode_short s k hlen]
      rfl
  · rw [if_pos (.inl hkey), execDecode_key s hkey]
    rfl

end Sys2Proof.Machine

/-! The pairing records of 43_pairing.md: PAIRSTD, PAIREXT and PAIR (R101 to R103), their sizes (R105) and what stands in them in clear (R104). PAIR is one of the other two (R100), so its laws are theirs. -/

namespace Sys2Proof.Machine

/-- What the three operations share, within the capacities: R106's two tests, then the record `f`
builds from the first six device id bytes and the key. -/
theorem respond_pairing {s : State} {devid key out : Bytes}
    (hcap : (s.cfg.devidCap.admits devid.length && s.cfg.keyCap.admits key.length) = true)
    {f : Bytes → MeshKey → Bytes} (hf : ∀ k : MeshKey, key = k.bytes → f (devid.take 6) k = out) :
    respond s (do
      let d ← readDevid s.cfg devid
      let k ← readKey s.cfg key
      return outResponse (f d k)) =
    .next (
      if devid.length < 6 ∨ key.length ≠ 4 then raise .lengthError s
      else complete (outResponse out) s) := by
  obtain ⟨hdevid, hkey⟩ := Bool.and_eq_true_iff.mp hcap
  by_cases hlen : key.length = 4
  · obtain ⟨k, rfl⟩ := exists_key_of_length hlen
    have hkey : s.cfg.keyCap.admits 4 = true := hkey
    rw [readDevid_eq, readKey_bytes, ← hf k rfl]
    by_cases h6 : devid.length < 6
    · simp [h6, Nat.not_le.mpr h6, respond]
    · simp [h6, Nat.not_lt.mp h6, hdevid, hkey, respond]
  · rw [readDevid_readKey_error s.cfg devid hlen, if_pos (.inr hlen), respond_error]

/-- Settles O18: the record is R98's, and the key's bytes are the operand's. -/
theorem pairstdAnswersAsItsRule : Obligations.PairstdAnswersAsItsRule := by
  intro devid alo const key s hwf
  exact respond_pairing hwf fun k hk => by rw [hk, pairStd]

/-- Settles O19: the record is R99's, with the five zeros written out. -/
theorem pairextAnswersAsItsRule : Obligations.PairextAnswersAsItsRule := by
  intro devid alo ghi const key s hwf
  refine respond_pairing hwf fun k hk => ?_
  rw [hk, pairExt, List.append_assoc _ [ghi]]
  rfl

/-- Settles O20: PAIR is the operation its address selects, which answers by its own rule. -/
theorem pairAnswersAsItsRule : Obligations.PairAnswersAsItsRule := by
  intro devid addr group key s hwf
  have hlow : BitVec.ofNat 8 (addr.toNat % 256) = BitVec.ofNat 8 addr.toNat :=
    BitVec.eq_of_toNat_eq (by simp)
  rw [pairIsStandardOrExtended, hlow]
  by_cases hext : 256 < addr.toNat
  · simp only [if_pos hext]
    exact pairextAnswersAsItsRule _ _ _ _ _ _ hwf
  · simp only [if_neg hext]
    exact pairstdAnswersAsItsRule _ _ _ _ _ hwf

/-! What a successful PAIRSTD or PAIREXT leaves in `out`. -/

theorem exec_pairstd_out_length {devid key : Bytes} {alo const : Byte} {s t : State}
    (h : exec (.pairstd devid alo const key) s = .next t) (ho : t.rsp.status = .ok) :
    t.rsp.out.length = 12 := by
  obtain ⟨k, -, hdevid, hout⟩ := execPairstd_ok h ho
  rw [hout, pairStd_length (List.length_take_of_le hdevid)]

theorem exec_pairext_out_length {devid key : Bytes} {alo ghi const : Byte} {s t : State}
    (h : exec (.pairext devid alo ghi const key) s = .next t) (ho : t.rsp.status = .ok) :
    t.rsp.out.length = 18 := by
  obtain ⟨k, -, hdevid, hout⟩ := execPairext_ok h ho
  rw [hout, pairExt_length (List.length_take_of_le hdevid)]

/-- Settles O51: the address selects the operation, and each has one size. -/
theorem pairingSizeLaw : Obligations.PairingSizeLaw := by
  intro devid addr group alo ghi const key s t ho
  refine ⟨fun h => ?_, fun h => exec_pairstd_out_length h ho, fun h => exec_pairext_out_length h ho⟩
  rw [pairIsStandardOrExtended] at h
  split_ifs at h with hext
  · rw [if_neg (Nat.not_le.mpr hext), exec_pairext_out_length h ho]
  · rw [if_pos (Nat.not_lt.mp hext), exec_pairstd_out_length h ho]

/-- A record opens with the device id bytes, and its bytes 8 to 11 are the key (R104). -/
def RecordInClear (devid key out : Bytes) : Prop :=
  out.take 6 = devid.take 6 ∧ (out.drop 8).take 4 = key

/-- Six device id bytes, two more, the key: whatever follows, each stands at its index. -/
theorem recordInClear_append {devid : Bytes} (hdevid : 6 ≤ devid.length) (a c : Byte) (k : MeshKey)
    (rest : Bytes) :
    RecordInClear devid k.bytes (devid.take 6 ++ [a, c] ++ k.bytes ++ rest) := by
  have hopen : (devid.take 6).length = 6 := List.length_take_of_le hdevid
  have hhead : (devid.take 6 ++ [a, c]).length = 8 := by rw [List.length_append, hopen]; rfl
  constructor
  · rw [List.append_assoc, List.append_assoc]
    exact List.take_left' hopen
  · rw [List.append_assoc, List.drop_left' hhead]
    exact List.take_left' k.bytes_length

theorem exec_pairstd_inClear {devid key : Bytes} {alo const : Byte} {s t : State}
    (h : exec (.pairstd devid alo const key) s = .next t) (ho : t.rsp.status = .ok) :
    RecordInClear devid key t.rsp.out := by
  obtain ⟨k, rfl, hdevid, hout⟩ := execPairstd_ok h ho
  rw [hout, pairStd, ← List.append_nil (_ ++ k.bytes)]
  exact recordInClear_append hdevid alo const k []

theorem exec_pairext_inClear {devid key : Bytes} {alo ghi const : Byte} {s t : State}
    (h : exec (.pairext devid alo ghi const key) s = .next t) (ho : t.rsp.status = .ok) :
    RecordInClear devid key t.rsp.out := by
  obtain ⟨k, rfl, hdevid, hout⟩ := execPairext_ok h ho
  rw [hout, pairExt, List.append_assoc _ [ghi]]
  exact recordInClear_append hdevid alo const k ([ghi] ++ zeros 5)

/-- Settles O52: both records open alike, and PAIR's is one of them. -/
theorem pairingRecordIsInClear : Obligations.PairingRecordIsInClear := by
  intro i devid key addr alo ghi const group s t hi h ho
  simp only [List.mem_cons, List.not_mem_nil, or_false] at hi
  obtain rfl | rfl | rfl := hi
  · exact exec_pairstd_inClear h ho
  · exact exec_pairext_inClear h ho
  · rw [pairIsStandardOrExtended] at h
    split_ifs at h
    · exact exec_pairext_inClear h ho
    · exact exec_pairstd_inClear h ho

end Sys2Proof.Machine

/-! The effect builders of 44_effects.md: FXAUTO (R109 to R111), FXCOLOR (R112, R113), the sizes of their payloads (R115) and their way into a frame (R116). -/

namespace Sys2Proof.Machine

/-! The bytes of FXAUTO (R109) for each count it accepts. -/

theorem fxAuto_one (c : Color) (speed : Byte) :
    fxAuto [c] speed = [0x00, 0x52, 0x04, 1, speed, c.r, c.g, c.b, 0, 0, 0, 0, 0, 0, 0, 0] := rfl

theorem fxAuto_two (c d : Color) (speed : Byte) :
    fxAuto [c, d] speed =
      [0x00, 0x52, 0x04, 2, speed, c.r, c.g, c.b, d.r, d.g, d.b, 0, 0, 0, 0, 0] := rfl

theorem fxAuto_three (c d e : Color) (speed : Byte) :
    fxAuto [c, d, e] speed =
      [0x00, 0x52, 0x04, 3, speed, c.r, c.g, c.b, d.r, d.g, d.b, e.r, e.g, e.b, 0, 0] := rfl

/-- The cut to 16 bytes drops the fourth colour's blue (R111). -/
theorem fxAuto_four (c d e f : Color) (speed : Byte) :
    fxAuto [c, d, e, f] speed =
      [0x00, 0x52, 0x04, 4, speed, c.r, c.g, c.b, d.r, d.g, d.b, e.r, e.g, e.b, f.r, f.g] := rfl

/-- Settles O21: the meaning's one test is the rule's, and each count it lets through has its row of
bytes. -/
theorem fxautoAnswersAsItsRule : Obligations.FxautoAnswersAsItsRule := by
  intro colors speed s
  rw [exec, execFxauto_eq]
  by_cases hbad : colors.length < 1 ∨ 4 < colors.length ∨ speed.toNat < 1
  · rw [if_pos hbad, if_neg (by omega), respond_error]
    rfl
  · rw [if_neg hbad, if_pos (by omega), respond_ok]
    match colors, hbad with
    | [], h => exact absurd (.inl Nat.zero_lt_one) h
    | [c], _ => rw [fxAuto_one]; rfl
    | [c, d], _ => rw [fxAuto_two]; rfl
    | [c, d, e], _ => rw [fxAuto_three]; rfl
    | [c, d, e, f], _ => rw [fxAuto_four]; rfl
    | _ :: _ :: _ :: _ :: _ :: _, h => exact absurd (.inr (.inl (by simp))) h

theorem execFxcolor_eq (ta tb : Byte) (modePresent : Bool) (mode r g b : Byte) (s : State) :
    execFxcolor ta tb modePresent mode r g b s =
      .next (complete (outResponse (fxColor ta tb (modeByte modePresent mode) r g b)) s) := rfl

/-- Settles O22: nothing is tested, and the mode byte is chosen by presence. -/
theorem fxcolorAnswersAsItsRule : Obligations.FxcolorAnswersAsItsRule := by
  intro ta tb modePresent mode r g b s
  rw [exec, execFxcolor_eq, fxColor, modeByte, modeDirect]
  rfl

/-! What a successful FXAUTO or FXCOLOR leaves in `out` (R115). -/

theorem exec_fxauto_out_length {colors : List Color} {speed : Byte} {s t : State}
    (h : exec (.fxauto colors speed) s = .next t) (ho : t.rsp.status = .ok) :
    t.rsp.out.length = 16 := by
  rw [exec, execFxauto_eq] at h
  obtain rfl := respond_next h
  split_ifs at ho ⊢
  · exact fxAuto_length colors speed
  · cases ho

theorem exec_fxcolor_out_length {ta tb : Byte} {modePresent : Bool} {mode r g b : Byte}
    {s t : State} (h : exec (.fxcolor ta tb modePresent mode r g b) s = .next t) :
    t.rsp.out.length = 12 := by
  rw [exec, execFxcolor_eq] at h
  obtain rfl := Host.Outcome.next.inj h
  rfl

/-- Settles O53: padding and cut make every FXAUTO payload 16 bytes, and FXCOLOR's layout has 12. -/
theorem effectFixedSizeLaw : Obligations.EffectFixedSizeLaw :=
  ⟨fun _ _ _ _ => exec_fxauto_out_length, fun _ _ _ _ _ _ _ _ _ => exec_fxcolor_out_length⟩

/-! An effect payload on its way into a frame (R116). -/

/-- No request changes the parameters (10_state.md R22). -/
theorem exec_cfg {i : Instr} {s t : State} (h : exec i s = .next t) : t.cfg = s.cfg := by
  obtain ⟨r, -, hexec⟩ := exec_responds s.cfg i
  obtain rfl := respond_next ((hexec s rfl).symm.trans h)
  rfl

/-- ENCODE accepts any payload within PAYLOAD_MAX, given fields in range and a key (R86). -/
theorem exec_encode_accepts {s : State} {ctype retry fwd : Byte} {p key : Bytes}
    (seq meshb : Byte) (hwf : s.cfg.wf = true) (hp : s.cfg.payloadMax.admits p.length = true)
    (hkey : key.length = 4) (hctype : ctype.toNat ≤ 7) (hretry : retry.toNat ≤ 15)
    (hfwd : fwd.toNat ≤ 1) :
    ∃ u, exec (.encode ctype retry seq meshb fwd p key) s = .next u ∧
      u.rsp.status = .ok ∧ u.rsp.out.length = p.length + 4 := by
  obtain ⟨k, rfl⟩ := exists_key_of_length hkey
  exact ⟨_, execEncode_accepted hwf hp k seq meshb (by omega), rfl, encodeFrame_length ..⟩

/-- Settles O54: either payload is at most 16 bytes, and the parameters ENCODE sees are still those
the effect ran under. -/
theorem effectPayloadsCanBeEncoded : Obligations.EffectPayloadsCanBeEncoded := by
  intro i colors speed ta tb mode r g b ctype retry seq meshb fwd modePresent key s t
    hi hwf hmax hkey hctype hretry hfwd h ho
  have hlen : t.rsp.out.length ≤ 16 := by
    simp only [List.mem_cons, List.not_mem_nil, or_false] at hi
    obtain rfl | rfl := hi
    · exact (exec_fxauto_out_length h ho).le
    · exact (exec_fxcolor_out_length h).trans_le (by decide)
  rw [← exec_cfg h] at hwf hmax
  exact exec_encode_accepts seq meshb hwf (Limit.admits_mono hlen hmax) hkey hctype hretry hfwd

end Sys2Proof.Machine

/-! The exceptions of 60_exceptions.md: what raising leaves (R129, R130), the status codes (R123), the tables of when each error is raised (R120 to R122) and their order (R126). -/

namespace Sys2Proof.Machine

/-- Settles O23: `raise` writes an all-zero response but for its status, and `valid`. -/
theorem raiseLeavesOnlyItsStatus : Obligations.RaiseLeavesOnlyItsStatus :=
  fun _ _ => ⟨rfl, rfl, rfl, rfl, rfl, rfl, rfl, rfl, rfl, rfl, rfl, rfl, rfl⟩

/-- Settles O24: the four rows of R123. -/
theorem statusCodesAreAsNumbered : Obligations.StatusCodesAreAsNumbered := ⟨rfl, rfl, rfl, rfl⟩

/-- Settles O27: a complete response has status OK, so a failing request has raised, and `raise`
writes nothing but the status and `valid`. -/
theorem failingRequestHasNoOtherEffect : Obligations.FailingRequestHasNoOtherEffect := by
  intro i s t h hfail
  obtain ⟨r, ⟨-, hok⟩, hexec⟩ := exec_responds s.cfg i
  obtain rfl := respond_next ((hexec s rfl).symm.trans h)
  cases r with
  | ok a => exact absurd (hok a rfl) hfail
  | error e => rfl

/-! Tests in sequence. A meaning is a chain of tests, the LengthError ones first, so its status is read
off the chain: each test adds its condition to those of the tests behind it. -/

/-- A test or a reader raises `e` where `p` holds, and lets the request on where it does not. -/
def Refuses {α : Type} (e : ErrorKind) (p : Prop) (x : Except ErrorKind α) : Prop :=
  (p → x = .error e) ∧ (¬ p → ∃ a, x = .ok a)

theorem refuses_ite {α : Type} (e : ErrorKind) (a : α) {p : Prop} [Decidable p] :
    Refuses e p (if p then .error e else .ok a) :=
  ⟨fun h => if_pos h, fun h => ⟨a, if_neg h⟩⟩

theorem refuses_ite_not {α : Type} (e : ErrorKind) (a : α) {p : Prop} [Decidable p] :
    Refuses e (¬ p) (if p then .ok a else .error e) :=
  ⟨fun h => if_neg h, fun h => ⟨a, if_pos (not_not.mp h)⟩⟩

theorem refuses_readKey (c : Config) (key : Bytes) :
    Refuses .lengthError (key.length ≠ 4 ∨ ¬ c.keyCap.admits key.length = true)
      (readKey c key) := by
  by_cases h : key.length = 4
  · obtain ⟨k, rfl⟩ := exists_key_of_length h
    simpa [readKey_bytes] using refuses_ite_not .lengthError k (p := c.keyCap.admits 4 = true)
  · exact ⟨fun _ => readKey_error h, fun hok => absurd (.inl h) hok⟩

theorem refuses_readPayload (c : Config) (inp : Bytes) :
    Refuses .lengthError
      (¬ (c.inCap.admits inp.length = true ∧ c.payloadMax.admits inp.length = true))
      (readPayload c inp) := by
  rw [readPayload_eq]
  exact refuses_ite_not ..

theorem refuses_readBytes (c : Config) (inp : Bytes) :
    Refuses .lengthError (¬ c.inCap.admits inp.length = true) (readBytes c inp) := by
  rw [readBytes_eq]
  exact refuses_ite_not ..

theorem refuses_readHeaderOnly (c : Config) (inp : Bytes) :
    Refuses .lengthError (inp.length ≠ 4 ∨ ¬ c.inCap.admits inp.length = true)
      (readHeaderOnly c inp) := by
  by_cases h : inp.length = 4
  · obtain ⟨d, rfl⟩ := exists_header_of_length_eq h
    simpa [readHeaderOnly_eq] using refuses_ite_not .lengthError d (p := c.inCap.admits 4 = true)
  · exact ⟨fun _ => readHeaderOnly_error h, fun hok => absurd (.inl h) hok⟩

theorem refuses_readFrame (c : Config) (inp : Bytes) :
    Refuses .lengthError (inp.length < 4 ∨
      ¬ (c.inCap.admits inp.length = true ∧ (c.payloadMax.plus 4).admits inp.length = true))
      (readFrame c inp) := by
  by_cases h : inp.length < 4
  · exact ⟨fun _ => readFrame_short h, fun hok => absurd (.inl h) hok⟩
  · obtain ⟨d, p, rfl⟩ := exists_header_of_length (Nat.le_of_not_lt h)
    have hlen : (d.bytes ++ p).length = p.length + 4 := by simp; omega
    rw [readFrame_eq, hlen, Limit.admits_plus]
    simpa using refuses_ite_not .lengthError (d, p)
      (p := c.inCap.admits (p.length + 4) = true ∧ c.payloadMax.admits p.length = true)

theorem refuses_readDevid (c : Config) (devid : Bytes) :
    Refuses .lengthError (¬ (c.devidCap.admits devid.length = true ∧ 6 ≤ devid.length))
      (readDevid c devid) := by
  rw [readDevid_eq]
  exact refuses_ite_not ..

theorem refuses_checkHeaderFields (c : Config) (retry ctype fwd : Byte) :
    Refuses .rangeError
      (c.rangeMode = .fault ∧ (15 < retry.toNat ∨ 7 < ctype.toNat ∨ 1 < fwd.toNat))
      (checkHeaderFields c retry ctype fwd) := by
  rw [checkHeaderFields_eq]
  exact refuses_ite ..

theorem refuses_checkEffect (colors : List Color) (speed : Byte) :
    Refuses .rangeError (¬ (1 ≤ colors.length ∧ colors.length ≤ 4 ∧ 1 ≤ speed.toNat))
      (checkEffect colors speed) := by
  rw [checkEffect_eq]
  exact refuses_ite_not ..

/-- The status of `r` is LengthError where `l` holds, else RangeError where `g` does, else OK (R126). -/
def Earns (r : Except ErrorKind Response) (l g : Prop) : Prop :=
  (l → (responseOf r).status = .lengthError) ∧
    (¬ l → g → (responseOf r).status = .rangeError) ∧ (¬ l → ¬ g → (responseOf r).status = .ok)

theorem earns_ok {a : Response} (h : a.status = .ok) : Earns (.ok a) False False :=
  ⟨False.elim, fun _ => False.elim, fun _ _ => h⟩

section chain
variable {α : Type} {x : Except ErrorKind α} {f : α → Except ErrorKind Response} {p l g : Prop}

theorem earns_length (hx : Refuses .lengthError p x) (hf : ∀ a, Earns (f a) l g) :
    Earns (x >>= f) (p ∨ l) g := by
  obtain ⟨herr, hok⟩ := hx
  by_cases hp : p
  · rw [herr hp, error_bind]
    exact ⟨fun _ => rfl, fun h => absurd (.inl hp) h, fun h => absurd (.inl hp) h⟩
  · obtain ⟨a, rfl⟩ := hok hp
    rw [or_iff_right hp]
    exact hf a

theorem earns_range (hx : Refuses .rangeError p x) (hf : ∀ a, Earns (f a) False g) :
    Earns (x >>= f) False (p ∨ g) := by
  obtain ⟨herr, hok⟩ := hx
  by_cases hp : p
  · rw [herr hp, error_bind]
    exact ⟨False.elim, fun _ _ => rfl, fun _ h => absurd (.inl hp) h⟩
  · obtain ⟨a, rfl⟩ := hok hp
    rw [or_iff_right hp]
    exact hf a

end chain

/-- A chain whose conditions are the rows of the tables answers with the tables' status. -/
theorem status_of_earns {i : Instr} {s : State} {r : Except ErrorKind Response} {l g : Prop}
    (hr : Earns r l g) (hl : lengthFault s.cfg i = true ↔ l) (hg : rangeFault s.cfg i = true ↔ g) :
    ∃ t, respond s r = .next t ∧ t.rsp.status = statusOf s.cfg i := by
  obtain ⟨hlength, hrange, hok⟩ := hr
  rw [← hl, ← hg] at hrange hok
  refine ⟨_, respond_eq s r, ?_⟩
  rw [complete_rsp, statusOf]
  split_ifs with hl' hg'
  · exact hlength (hl.mp hl')
  · exact hrange hl' hg'
  · exact hok hl' hg'

/-- The LengthError tests that ENCODEH and DECODE share, then the response `f` builds. -/
theorem earns_frame (c : Config) (inp key : Bytes) {f : MeshKey → Header × Bytes → Response}
    (hf : ∀ k d, (f k d).status = .ok) :
    Earns (do let k ← readKey c key; let d ← readFrame c inp; return f k d)
      ((key.length ≠ 4 ∨ ¬ c.keyCap.admits key.length = true) ∨ (inp.length < 4 ∨
        ¬ (c.inCap.admits inp.length = true ∧ (c.payloadMax.plus 4).admits inp.length = true)) ∨
        False) False :=
  earns_length (refuses_readKey c key) fun _ =>
    earns_length (refuses_readFrame c inp) fun _ => earns_ok (hf _ _)

/-- The LengthError tests that the pairing operations share (R106). -/
theorem earns_pairing (c : Config) (devid key : Bytes) (f : Bytes → MeshKey → Bytes) :
    Earns (do let d ← readDevid c devid; let k ← readKey c key; return outResponse (f d k))
      (¬ (c.devidCap.admits devid.length = true ∧ 6 ≤ devid.length) ∨
        (key.length ≠ 4 ∨ ¬ c.keyCap.admits key.length = true) ∨ False) False :=
  earns_length (refuses_readDevid c devid) fun _ =>
    earns_length (refuses_readKey c key) fun _ => earns_ok rfl

/-- Settles O25: each meaning's chain of tests, written out, holds the rows of the two tables for
its operation in another order. -/
theorem statusFollowsTheErrorTables : Obligations.StatusFollowsTheErrorTables := by
  intro i s
  cases i
  case' pack =>
    refine status_of_earns (earns_length (refuses_readPayload ..) fun _ =>
      earns_range (refuses_checkHeaderFields ..) fun _ => earns_ok rfl) ?_ ?_
  case' hxor | fxcolor => refine status_of_earns (earns_ok rfl) ?_ ?_
  case' hxorb =>
    refine status_of_earns (earns_length (refuses_readHeaderOnly ..) fun _ => earns_ok rfl) ?_ ?_
  case' pxor =>
    refine status_of_earns (earns_length (refuses_readKey ..) fun _ =>
      earns_length (refuses_readBytes ..) fun _ => earns_ok rfl) ?_ ?_
  case' encode =>
    refine status_of_earns (earns_length (refuses_readKey ..) fun _ =>
      earns_length (refuses_readPayload ..) fun _ =>
        earns_range (refuses_checkHeaderFields ..) fun _ => earns_ok rfl) ?_ ?_
  case' encodeh | decode => refine status_of_earns (earns_frame _ _ _ fun _ _ => rfl) ?_ ?_
  case' pairstd | pairext | pair => refine status_of_earns (earns_pairing ..) ?_ ?_
  case' fxauto =>
    refine status_of_earns (earns_range (refuses_checkEffect ..) fun _ => earns_ok rfl) ?_ ?_
  all_goals grind [lengthFault, rangeFault, overCapacity, Instr.wf]

/-- An operation whose row of the tables names an error raises it. -/
theorem exec_raises {i : Instr} {s : State} (e : ErrorKind) (h : statusOf s.cfg i = e.status) :
    exec i s = .next (raise e s) := by
  obtain ⟨t, hexec, hstatus⟩ := statusFollowsTheErrorTables i s
  rw [h] at hstatus
  have ht := failingRequestHasNoOtherEffect i s t hexec (hstatus ▸ errorKind_status_ne_ok e)
  rw [hexec, ht, hstatus]
  rfl

theorem statusOf_of_overCapacity {c : Config} {i : Instr} (h : overCapacity c i = true) :
    statusOf c i = .lengthError := by
  simp [statusOf, lengthFault, h]

theorem statusOf_fxauto_of_four_lt (c : Config) {colors : List Color} (speed : Byte)
    (h : 4 < colors.length) : statusOf c (.fxauto colors speed) = .rangeError := by
  simp [statusOf, lengthFault, overCapacity, rangeFault, h]

/-- Settles O26: a sequence over its capacity is in R120's last row, and COLORS_CAP admits the four
colours that R121 does, so more than it admits are more than four. -/
theorem overCapacityIsRefused : Obligations.OverCapacityIsRefused := by
  intro i s hwf hover
  cases i
  case fxauto colors speed =>
    have hcount : 4 < colors.length := by
      by_contra hle
      have hcap : s.cfg.colorsCap.admits colors.length = true :=
        Limit.admits_mono (Nat.not_lt.mp hle) (Config.colorsCap_four hwf)
      cases hcap.symm.trans hover
    exact exec_raises .rangeError (statusOf_fxauto_of_four_lt s.cfg speed hcount)
  all_goals
    exact exec_raises .lengthError (statusOf_of_overCapacity (by simp [overCapacity, hover]))

/-- Settles O6: an assigned operation's status is one of the tables', which hold no IllegalOp, and
its code is below 12; a request with another code raises IllegalOp. -/
theorem illegalOpExactlyForUnassignedCodes : Obligations.IllegalOpExactlyForUnassignedCodes := by
  intro s q rest hs
  have hcodes : q.op.toNat ∈ [0xC, 0xD, 0xE, 0xF] ↔ 12 ≤ q.op.toNat := by
    have := q.op.isLt
    simp
    omega
  rw [hcodes]
  cases hd : decodeRequest q with
  | ok i =>
    obtain ⟨t, hexec, hstatus⟩ := statusFollowsTheErrorTables i s.consume
    have hcode : q.op.toNat < 12 := opcode_of_decodeRequest hd ▸ i.opcode_toNat_lt
    refine ⟨t, (step_assigned hs hd).trans hexec, iff_of_false ?_ (Nat.not_le.mpr hcode)⟩
    rw [hstatus, statusOf]
    split_ifs <;> nofun
  | error e =>
    exact ⟨_, step_unassigned hs hd, iff_of_true rfl (unassigned_of_decodeRequest hd).2⟩

end Sys2Proof.Machine

/-! Reset, requests in sequence and termination of 70_reset_and_hazards.md: reset clears the response (R139), nothing happens without a request (R142), and every request is answered without stopping the block (R143). -/

namespace Sys2Proof.Machine

/-- Settles O2: reset clears RSP and `valid` where its move has been taken. -/
theorem resetMoveClearsResponse : Obligations.ResetMoveClearsResponse := by
  intro s rest hs
  rw [step_reset hs, State.consume_eq hs, applyReset]

/-- Settles O3: the idle step. -/
theorem idleStepChangesNothing : Obligations.IdleStepChangesNothing :=
  fun _ => step_idle

/-- A request, of whatever code, is answered by one complete response, which the parameters and the
request alone decide (00_scope.md R12, 20_memory.md R35, 30_encoding.md R61). -/
theorem step_request (c : Config) (q : Request) :
    ∃ r : Response, ∀ (s : State) (rest : List HostMove), s.cfg = c →
      s.inputs = .request q :: rest → step s = .next (complete r { s with inputs := rest }) := by
  cases hd : decodeRequest q with
  | ok i =>
    obtain ⟨r, hexec⟩ := responseDependsOnOperandsAlone c i
    refine ⟨r, fun s rest hc hs => ?_⟩
    rw [stepRunsDecodedOperation s q rest i hs hd]
    exact hexec { s with inputs := rest } hc
  | error e =>
    refine ⟨{ Response.zero with status := .illegalOp }, fun s rest _ hs => ?_⟩
    rw [step_unassigned hs hd, State.consume_eq hs]
    rfl

/-- Settles O28: an idle step, a reset and a request each answer a next state, and none writes the
parameters. -/
theorem everyStepAnswersOneMove : Obligations.EveryStepAnswersOneMove := by
  intro s
  cases hs : s.inputs with
  | nil => exact ⟨s, idleStepChangesNothing s hs, hs, rfl, nofun⟩
  | cons m rest =>
    cases m with
    | reset => exact ⟨_, resetMoveClearsResponse s rest hs, rfl, rfl, nofun⟩
    | request q =>
      obtain ⟨r, hstep⟩ := step_request s.cfg q
      exact ⟨_, hstep s rest rfl hs, rfl, rfl, fun _ _ _ => rfl⟩

/-- States of the same parameters answer a request with the same state: the last response leaves no
trace in the next one (10_state.md R24, 20_memory.md R39). -/
theorem step_request_of_cfg_eq {s t : State} (q : Request) (rest : List HostMove)
    (hcfg : s.cfg = t.cfg) :
    step { s with inputs := .request q :: rest } = step { t with inputs := .request q :: rest } := by
  obtain ⟨r, hstep⟩ := step_request t.cfg q
  rw [hstep { s with inputs := .request q :: rest } rest hcfg rfl,
    hstep { t with inputs := .request q :: rest } rest rfl rfl]
  simp only [complete, hcfg]

/-- A run on requests, the last of them `q`: each earlier step keeps the parameters, and they are all
that `q` is answered from. -/
theorem run_requests (qs : List Request) (q : Request) (s : State)
    (hs : s.inputs = (qs ++ [q]).map HostMove.request) :
    ∃ t : State, core.run (qs.length + 1) s = .next t ∧ t.valid = true ∧ t.inputs = [] ∧
      step { s with inputs := [.request q] } = .next t := by
  induction qs generalizing s with
  | nil =>
    obtain ⟨t, hstep, hinputs, -, hvalid⟩ := everyStepAnswersOneMove s
    have halone : { s with inputs := [.request q] } = s := by cases s; cases hs; rfl
    refine ⟨t, run_succ hstep, hvalid q [] hs, ?_, halone ▸ hstep⟩
    rw [hinputs, hs]
    rfl
  | cons p qs ih =>
    obtain ⟨u, hstep, hinputs, hcfg, -⟩ := everyStepAnswersOneMove s
    have hrest : u.inputs = (qs ++ [q]).map HostMove.request := by rw [hinputs, hs]; rfl
    obtain ⟨t, hrun, hvalid, hnone, hlast⟩ := ih u hrest
    refine ⟨t, (run_succ hstep).trans hrun, hvalid, hnone, ?_⟩
    rw [← step_request_of_cfg_eq q [] hcfg, hlast]

/-- Settles O31: a run of no steps, and a run on requests by induction on those before the last. -/
theorem runEndsWithTheLastResponse : Obligations.RunEndsWithTheLastResponse :=
  ⟨run_zero, fun s qs q => run_requests qs q s⟩

end Sys2Proof.Machine
